-- ==== Sys2Proof/Word.lean ====
section
/-! DEFINITION. The word types of the spec's formats: bytes (R9), Samples (R54), binary32 words (R52), ComplexValues (R53)
and the sparse stores that hold the CORE's buffers (R24: an element has no value until a rule writes it). -/

namespace Sys2Proof

/-- A byte of a stream, of STAGE, of FIN or of the ring RAM (u8, R9). -/
abbrev Byte := BitVec 8

/-- A Sample: i16, two's complement (R54). -/
abbrev Sample := BitVec 16

/-- A binary32 word: sign in bit 31, biased exponent in bits 30:23, fraction in bits 22:0 (R10, R52). -/
abbrev F32 := BitVec 32

/-- A ComplexValue: a pair of binary32 words (R10, R53). -/
structure Cplx where
  /-- The real part, bits 63:32 of the packed element (R53). -/
  re : F32
  /-- The imaginary part, bits 31:0 of the packed element (R53). -/
  im : F32
  deriving DecidableEq, Repr, Inhabited

/-- A buffer of values at natural addresses, in one canonical form: addresses strictly rising, and an address that is not
listed holds no value (R24). The ring RAM is a store of bytes, a list of `Host.Cell`. -/
abbrev Store (α : Type) := List (Nat × α)

/-- `{hi, lo}` of R53: the 64-bit element of the spectrum register file. -/
def Cplx.pack (z : Cplx) : BitVec 64 := z.re ++ z.im

/-- The ComplexValue a 64-bit element holds (R53). -/
def Cplx.unpack (b : BitVec 64) : Cplx := ⟨b.extractLsb' 32 32, b.extractLsb' 0 32⟩

end Sys2Proof
end

