-- ==== Sys2Proof/Config.lean ====
section
/-! DEFINITION. The elaboration-time parameters of an instance (R6) and the free values: what the spec leaves to an
implementation and gives no value for. -/

namespace Sys2Proof

/-- The configuration record of one instance (R6, R29): fixed before reset and never changed while running.
`K_MIN` and `K_MAX` are not fields; they are derived from the three frequencies by R85. -/
structure Params where
  /-- FRAME_LEN, samples per frame: 256 only (R6). -/
  frameLen : Nat := 256
  /-- CAP, the ring capacity in bytes: a power of two, at least 1024 (R6, R7). -/
  cap : Nat := 4096
  /-- SAMPLE_RATE_HZ (R6). -/
  sampleRateHz : Nat := 16000
  /-- LOW_CUTOFF_HZ (R6). -/
  lowCutoffHz : Nat := 300
  /-- HIGH_CUTOFF_HZ (R6). -/
  highCutoffHz : Nat := 8000
  /-- SYNC_STAGES, flip-flops per pointer synchroniser: at least 2 (R6). -/
  syncStages : Nat := 2
  /-- RETRY_WAIT, `clk_in` cycles between a failed commit check and the next: 0 … 65535 (R6). -/
  retryWait : Nat := 8
  deriving DecidableEq, Repr, Inhabited

/-- The instance this hardware has by default (the value column of R6). -/
def Params.default : Params := {}

/-- FREE VALUE (I8, I10; log entry 14): how many `clk_proc` edges pass before CONS acts again, at the n-th time the model
asks. It stands for the RAM read latency and for the unspecified length of PROCESSING (R120, R121). -/
opaque Config.procStall : Nat → Nat

/-- FREE VALUE (I8, I9; log entry 14): how many further operations of the pipeline schedule an active edge of PROCESSING
performs after its first, at the n-th time the model asks (R78, R84, R121). -/
opaque Config.pipeRate : Nat → Nat

end Sys2Proof
end

