-- ==== Sys2Proof/Machine/Params.lean ====
section
/-! DEFINITION. The derived constants of R8, the legal values of R6 and the rejections of R7. -/

namespace Sys2Proof

/-- FRAME_BYTES of R8: bytes per frame. -/
def frameBytes : Nat := 512

/-- SOF of R8: the start delimiter of an output frame. -/
def sofByte : Byte := 0xAA#8

/-- EOF of R8: the end delimiter of an output frame. -/
def eofByte : Byte := 0xBB#8

/-- F of R8: frame slots in the ring. -/
def Params.slots (p : Params) : Nat := p.cap / 512

/-- FPTR_W of R8: the width of a frame pointer. -/
def Params.fptrW (p : Params) : Nat := p.slots.log2

/-- BPTR_W of R8: the width of a byte address in the ring. -/
def Params.bptrW (p : Params) : Nat := p.cap.log2

/-- Whether a natural is a power of two. -/
def isPowerOfTwo (n : Nat) : Bool := n == 2 ^ n.log2

/-- R7: whether elaboration rejects the instance, so that no hardware exists for it. -/
def Params.rejected (p : Params) : Bool :=
  p.frameLen != 256 || !isPowerOfTwo p.cap || p.cap ≤ 512 || p.sampleRateHz == 0 || p.syncStages < 2

/-- R6: every parameter has a legal value (the value column's ranges and R7). -/
def Params.legal (p : Params) : Bool :=
  p.frameLen == 256 && isPowerOfTwo p.cap && 1024 ≤ p.cap &&
  (1 ≤ p.sampleRateHz && p.sampleRateHz ≤ 2 ^ 24 - 1) &&
  p.lowCutoffHz ≤ 2 ^ 24 - 1 && p.highCutoffHz ≤ 2 ^ 24 - 1 && 2 ≤ p.syncStages && p.retryWait ≤ 65535

/-- `⌊f / (SR / 256)⌋` of R85, in exact integers; the spec gives it for SR ≥ 1 only. -/
def binOf (rateHz cutoffHz : Nat) : Nat := (cutoffHz * 256) / rateHz

/-- K_MIN of R85. -/
def Params.kMin (p : Params) : Nat := binOf p.sampleRateHz p.lowCutoffHz

/-- K_MAX of R85. -/
def Params.kMax (p : Params) : Nat := binOf p.sampleRateHz p.highCutoffHz

end Sys2Proof
end

