-- ==== Sys2Proof/Syntax.lean ====
section
/-! DEFINITION. The operations of the CORE: one constructor per row of `spec/opcode_table.json` (R58), its arguments the
row's field letters in the table's order (R60). -/

namespace Sys2Proof

/-- One operation, with the fields of its decode word or operand layout (R60). Pointers and Gray codes are FPTR_W bits
wide, a width the instance fixes, so they are naturals and `wellFormed` bounds them. -/
inductive Instr where
  /-- ROM_READ (R64): the 9-bit ROM address `a`. -/
  | romRead (a : BitVec 9)
  /-- COS (R65): the angle `t`. -/
  | cos (t : F32)
  /-- SIN (R66): the angle `t`. -/
  | sin (t : F32)
  /-- BITREV (R71): the array index `i`. -/
  | bitrev (i : BitVec 8)
  /-- STAGE_TW (R72): the stage `s`, 1 … 8. -/
  | stageTw (s : BitVec 4)
  /-- CMUL (R73): the ComplexValues `a` and `b`. -/
  | cmul (a b : Cplx)
  /-- BUTTERFLY (R74): the stage `s`, the upper position `p` and the position `j` in the group, which selects w_j. -/
  | butterfly (s : BitVec 4) (p : BitVec 8) (j : BitVec 7)
  /-- FFT (R75): the output bin `k`. -/
  | fft (k : BitVec 8)
  /-- IFFT_TW (R79): the phase `p`. -/
  | ifftTw (p : BitVec 8)
  /-- IFFT_SUM (R80): the output index `n`. -/
  | ifftSum (n : BitVec 8)
  /-- IFFT (R81): the output index `n`. -/
  | ifft (n : BitVec 8)
  /-- KBOUNDS (R85): SAMPLE_RATE_HZ, LOW_CUTOFF_HZ and HIGH_CUTOFF_HZ. -/
  | kbounds (r l h : BitVec 32)
  /-- MASK (R86): the bin index `i`. -/
  | mask (i : BitVec 8)
  /-- UNPACK (R91): the sample index `i`. -/
  | unpack (i : BitVec 8)
  /-- WIDEN (R92): the Sample `v`. -/
  | widen (v : Sample)
  /-- NARROW (R93): the binary32 word `y`. -/
  | narrow (y : F32)
  /-- PACK (R94): the sample index `i`. -/
  | pack (i : BitVec 8)
  /-- FILTER (R95): the output sample index `n`. -/
  | filter (n : BitVec 8)
  /-- GRAY_ENC (R97): the frame pointer `b`. -/
  | grayEnc (b : Nat)
  /-- GRAY_DEC (R97): the Gray code `g`. -/
  | grayDec (g : Nat)
  /-- SYNC_H (R98): the Gray code of `hf` that crosses. -/
  | syncH (g : Nat)
  /-- SYNC_T (R98): the Gray code of `tf` that crosses. -/
  | syncT (g : Nat)
  /-- ACCEPT (R108): `s` is prod_state[0], `c` is can_commit (ignored), `d` the byte taken. -/
  | accept (s c : BitVec 1) (d : Byte)
  /-- COMMIT_OK (R109): in_valid and in_data, both ignored. -/
  | commitOk (v : BitVec 1) (x : Byte)
  /-- COMMIT_BP (R110): in_valid and in_data, both ignored. -/
  | commitBp (v : BitVec 1) (x : Byte)
  /-- DEQUEUE (R116). -/
  | dequeue
  /-- PROCESS (R117): frames_ready ≥ 1, ignored. -/
  | process (f : BitVec 1)
  /-- EMIT_SOF (R118). -/
  | emitSof
  /-- EMIT_DATA (R118): emit_idx `e`, 1 … 512, and the payload byte `d`. -/
  | emitData (e : BitVec 10) (d : Byte)
  /-- EMIT_EOF (R118). -/
  | emitEof
  /-- RESET (R134). -/
  | reset
  deriving DecidableEq, Repr

/-- The function rows of R58: a function is not selected by bits (R60), it is called by name. -/
inductive Fn where
  | romRead | cos | sin | bitrev | stageTw | cmul | butterfly | fft | ifftTw | ifftSum | ifft | kbounds | mask | unpack
  | widen | narrow | pack | filter | grayEnc | grayDec
  deriving DecidableEq, Repr

/-- Where a word comes from (the formats of R60): the decode word of an agent, or the operand of a function. -/
inductive Source where
  /-- PROD_IN: the decode word of PROD. -/
  | prodIn
  /-- CONS_CTL: the decode word of CONS in WAITING and PROCESSING. -/
  | consCtl
  /-- CONS_OUT: the decode word of CONS in EMITTING. -/
  | consOut
  /-- SYNC, carried by SYNC_H. -/
  | syncH
  /-- SYNC, carried by SYNC_T. -/
  | syncT
  /-- PORT_RST. -/
  | portRst
  /-- The FN_ formats and ELAB: the operand of the function `f`. -/
  | fn (f : Fn)
  deriving DecidableEq, Repr

end Sys2Proof
end

