-- ==== Sys2Proof/Machine/State.lean ====
section
/-! DEFINITION. The reasons a step can stop, the state of the CORE at both of its levels of description (R13: T is the
transaction level, C the cycle level) and its value right after reset (R135). -/

namespace Sys2Proof.Machine

/-- The fault states of R123, absorbing and unreachable in the hardware (I17 to I19). Each is safe: the model stops where
the rules prove that the hardware never comes. -/
inductive Fault where
  /-- `prod_state` or `cons_state` is 0b11 (R18, R61); raised by a turn or an operation of that agent. Safe. -/
  | badStateCode
  /-- A ROM address of 360 or more (R64, R61); raised by ROM_READ. Safe. -/
  | romAddress
  /-- COS or SIN is given a NaN or an infinity (R65, R66). Safe. -/
  | trigNonFinite
  /-- A binary32 value of the pipeline is a NaN or an infinity (R124, R61); raised by every binary32 operation on such
  an operand or with such a result. Safe. -/
  | nonFinite
  /-- NARROW is given |y| ≥ 2^31 (R93). Safe. -/
  | narrowRange
  /-- ACCEPT with `stage_cnt` ≥ 512 (R108, R61). Safe. -/
  | stageOverflow
  /-- `emit_idx` above 513 (R118, R61); raised by a turn of CONS or an EMIT operation. Safe. -/
  | emitOverflow
  /-- A read of an element that no rule has written since reset (R24); raised by every read of STAGE, FIN, FOUT, RAM, X,
  COSP, SINP and y. Safe. -/
  | unwrittenRead
  /-- A commit when the ring has no room, or a read of the tail slot when no frame is known to be ready (R103, R42 point 2);
  raised by COMMIT_OK, DEQUEUE and UNPACK. Safe. -/
  | ringOverrun
  deriving DecidableEq, Repr

/-- Why the model gives no meaning. -/
inductive Refusal where
  /-- The operation has no meaning in the model; raised by no arm of `exec` as it stands. Safe. -/
  | notModelled (mnemonic : String)
  /-- The word of a call is no word of its row (R60); raised by step. Safe. -/
  | badEncoding
  /-- The operand lies outside its row's range (R58: a stage outside 1 … 8, a butterfly outside its group, a pointer of
  more than FPTR_W bits); raised by the meanings, unreachable from step, whose decoder refuses the word. Safe. -/
  | badOperand
  /-- The operation's trigger does not hold, so no agent takes it in this state (R58, R59); raised by the meanings of the
  step rows, unreachable from step, which forms an agent's decode word from its state. Safe. -/
  | notEnabled
  /-- Elaboration rejects the parameters: no hardware exists (R7); raised by step and by KBOUNDS on a sample rate of 0. Safe. -/
  | elabRejected
  /-- `rst_n` rose before SYNC_STAGES + 1 edges of each clock: undefined (R134 item 3, I13); raised by the release of
  `rst_n`. Safe. -/
  | shortReset
  deriving DecidableEq, Repr

/-- `cphase`, the sub-phase of COMMIT (R19, R113). -/
inductive CommitPhase where
  | check | wait | copy
  deriving DecidableEq, Repr

/-- The loop the pipeline sequencer is in (R20 "counters of the FFT, mask, IFFT and narrowing loops", in the order of R95). -/
inductive PipePhase where
  /-- R70: the complex widen. -/
  | widen
  /-- R71: the bit reversal. -/
  | bitrev
  /-- R75: the eight stages of butterflies. -/
  | stages
  /-- R86: the mask. -/
  | mask
  /-- R79: the phase tables. -/
  | phases
  /-- R80: the output sums. -/
  | sums
  /-- R93: the narrowing. -/
  | narrow
  deriving DecidableEq, Repr

/-- What happens next, given by the world outside the CORE: the turn of an agent (R14), a call of a function, or a change
at a clock or reset port (R48). The order of the turns is free (R14, I6), so it is data of the state (log entry 2). -/
inductive Event where
  /-- T: PROD's turn, with what SRC offers at `in_valid` and `in_data`. -/
  | prod (inValid : Bool) (inData : Byte)
  /-- T: CONS's turn, with what SINK drives on `out_ready`. -/
  | cons (outReady : Bool)
  /-- T: SYNC_H's turn. -/
  | syncH
  /-- T: SYNC_T's turn. -/
  | syncT
  /-- T: `rst_n` is asserted and released, as one event (R134 item 4). -/
  | reset
  /-- The function `f` is called on the operand word `w` (R60). -/
  | call (f : Fn) (w : Nat)
  /-- C: a rising edge of `clk_in`, with the input port's signals at that edge. -/
  | clkIn (inValid : Bool) (inData : Byte)
  /-- C: a rising edge of `clk_proc`, with `out_ready` at that edge. -/
  | clkProc (outReady : Bool)
  /-- C: rising edges of both clocks that coincide, as every edge of a single-clock instance does (R15), with the signals of both
  ports at it. `newHead` and `newTail` say how the first flop of `hf_sync` and of `tf_sync` resolves when the register it samples
  changes at this edge: to its old code or to its new one (R99). In a single-clock instance both are false (log entry 22). -/
  | clkBoth (inValid : Bool) (inData : Byte) (outReady : Bool) (newHead newTail : Bool)
  /-- C: `rst_n` takes the level. -/
  | rstN (level : Bool)
  deriving DecidableEq, Repr

/-- The value a function row returned (the result column of R64 to R97). -/
inductive FnResult where
  /-- No function has returned since reset. -/
  | none
  /-- A binary32 word. -/
  | word (v : F32)
  /-- A ComplexValue, or the pair (COSP[p], SINP[p]). -/
  | complex (v : Cplx)
  /-- A Sample. -/
  | sample (v : Sample)
  /-- Two payload bytes, the low byte first. -/
  | bytes (lo hi : Byte)
  /-- A frame pointer or a Gray code. -/
  | pointer (v : Nat)
  /-- The mask bounds K_MIN and K_MAX. -/
  | bounds (kMin kMax : Nat)
  deriving DecidableEq, Repr

/-- The registers and buffers PROD owns, in the `clk_in` domain (R19). `tv` is the value of `tfSync`'s last flop. -/
structure Producer where
  /-- `prod_state` (R18): 0b00 IDLE, 0b01 ACCUM, 0b10 COMMIT. -/
  state : BitVec 2
  /-- `stage_cnt`, 0 … 512. -/
  stageCnt : BitVec 10
  /-- `STAGE[0..511]`. -/
  stage : Store Byte
  /-- `hf`, the head frame pointer. -/
  hf : Nat
  /-- `bp_flag`. -/
  bpFlag : Bool
  /-- `bp_count`. -/
  bpCount : BitVec 32
  /-- `cphase` (C). -/
  cphase : CommitPhase
  /-- `wait_cnt` (C). -/
  waitCnt : BitVec 16
  /-- `copy_idx` (C). -/
  copyIdx : BitVec 9
  /-- `hf_gray` (C). -/
  hfGray : Nat
  /-- `tf_sync[1..SYNC_STAGES]` (C), flop 1 first. -/
  tfSync : List Nat
  deriving DecidableEq, Repr

/-- The registers and buffers CONS owns, in the `clk_proc` domain (R20). `hv` is the value of `hfSync`'s last flop. -/
structure Consumer where
  /-- `cons_state` (R18): 0b00 WAITING, 0b01 PROCESSING, 0b10 EMITTING. -/
  state : BitVec 2
  /-- `tf`, the tail frame pointer. -/
  tf : Nat
  /-- `FIN[0..255]` as its 512 bytes: sample i is the byte pair 2i (low), 2i+1 (high) (R120; log entry 12). -/
  fin : Store Byte
  /-- `FOUT[0..255]`. -/
  fout : Store Sample
  /-- `emit_idx`, 0 … 513. -/
  emitIdx : BitVec 10
  /-- `dq_active` (C). -/
  dqActive : Bool
  /-- `rd_idx` (C). -/
  rdIdx : BitVec 9
  /-- `out_valid` (C). -/
  outValid : Bool
  /-- `out_data` (C). -/
  outData : Byte
  /-- `tf_gray` (C). -/
  tfGray : Nat
  /-- `hf_sync[1..SYNC_STAGES]` (C), flop 1 first. -/
  hfSync : List Nat
  deriving DecidableEq, Repr

/-- The arrays the functions of the pipeline work on. -/
structure Workspace where
  /-- `X[0..255]`, the spectrum (R23). -/
  x : Store Cplx
  /-- `COSP[0..255]` (R79). -/
  cosp : Store F32
  /-- `SINP[0..255]` (R79). -/
  sinp : Store F32
  /-- `y[0..255]` (R80). -/
  y : Store F32
  deriving DecidableEq, Repr

/-- The working storage of the pipeline and its sequencer (C; internal to one step at T: R20, R117). Only the steps of CONS write
it (R16). -/
structure Pipeline extends Workspace where
  /-- Which loop the sequencer is in. -/
  phase : PipePhase
  /-- The stage counter of the FFT, 1 … 8. -/
  stageCtr : Nat
  /-- The block counter of the FFT: the first position of the block. -/
  blockCtr : Nat
  /-- The index counter of the loop. -/
  indexCtr : Nat
  /-- The MODEL's own: `clk_proc` edges still to pass before CONS acts (log entry 14). -/
  stall : Nat
  deriving DecidableEq, Repr

/-- The reset line and the two reset synchronisers (R134). -/
structure ResetUnit where
  /-- The level of `rst_n`. -/
  rstN : Bool
  /-- The reset synchroniser of the `clk_in` domain, first flop first; the domain is out of reset when the last is 1. -/
  inSync : List Bool
  /-- The reset synchroniser of the `clk_proc` domain. -/
  procSync : List Bool
  /-- The MODEL's own: rising `clk_in` edges since `rst_n` fell (R134 item 3). -/
  lowIn : Nat
  /-- The MODEL's own: rising `clk_proc` edges since `rst_n` fell. -/
  lowProc : Nat
  deriving DecidableEq, Repr

/-- The state of one instance of the CORE. -/
structure State where
  /-- The parameters of the instance; no step changes them (R6, R29). -/
  cfg : Params
  /-- PROD's domain (R19). -/
  prod : Producer
  /-- CONS's domain (R20). -/
  cons : Consumer
  /-- The pipeline's working storage. -/
  pipe : Pipeline
  /-- The ring RAM: the bytes written since the last reset (R22, R24). -/
  ram : List Host.Cell
  /-- The RAM contents that the last reset left in place; no read may rely on them (R134, R136, I12; log entry 11). -/
  ramKept : List Host.Cell
  /-- The reset line (R134). -/
  rst : ResetUnit
  /-- The MODEL's own: the events to come, the next one first (log entry 2). -/
  inbox : List Event
  /-- The MODEL's own: A of R96, the bytes accepted since the last reset. -/
  inLog : List Byte
  /-- The MODEL's own: E of R96, the bytes emitted since the last reset. -/
  emitted : List Byte
  /-- The MODEL's own: the bytes emitted before the last reset. -/
  emittedBefore : List Byte
  /-- The MODEL's own: the arrays that functions called by name take and give (log entry 6). No step of an agent reads or writes
  them. -/
  work : Workspace
  /-- The MODEL's own: what the last function row returned (log entry 6). -/
  fnOut : FnResult
  /-- The MODEL's own: how many free values have been drawn (log entry 14). -/
  freeIdx : Nat
  deriving DecidableEq, Repr

/-- The state codes of R18. -/
def codeIdle : BitVec 2 := 0#2
/-- R18. -/
def codeAccum : BitVec 2 := 1#2
/-- R18. -/
def codeCommit : BitVec 2 := 2#2
/-- R18. -/
def codeWaiting : BitVec 2 := 0#2
/-- R18. -/
def codeProcessing : BitVec 2 := 1#2
/-- R18. -/
def codeEmitting : BitVec 2 := 2#2
/-- R18: the code that neither register ever holds. -/
def codeUnused : BitVec 2 := 3#2

/-- The reset column of R19. -/
def Producer.reset (p : Params) : Producer where
  state := codeIdle
  stageCnt := 0#10
  stage := []
  hf := 0
  bpFlag := false
  bpCount := 0#32
  cphase := .check
  waitCnt := 0#16
  copyIdx := 0#9
  hfGray := 0
  tfSync := List.replicate p.syncStages 0

/-- The reset column of R20. -/
def Consumer.reset (p : Params) : Consumer where
  state := codeWaiting
  tf := 0
  fin := []
  fout := []
  emitIdx := 0#10
  dqActive := false
  rdIdx := 0#9
  outValid := false
  outData := 0x00#8
  tfGray := 0
  hfSync := List.replicate p.syncStages 0

/-- Arrays that hold no value. -/
def Workspace.empty : Workspace where
  x := []
  cosp := []
  sinp := []
  y := []

/-- X, the tables and y hold no value after reset (R24, R135). The sequencer counters are unspecified: DESIGN CHOICE, the
start of the first loop (log entry 15). -/
def Pipeline.reset : Pipeline where
  toWorkspace := Workspace.empty
  phase := .widen
  stageCtr := 0
  blockCtr := 0
  indexCtr := 0
  stall := 0

/-- The reset line after a whole reset: released, and both domains out of reset (log entry 16). -/
def ResetUnit.released (p : Params) : ResetUnit where
  rstN := true
  inSync := List.replicate p.syncStages true
  procSync := List.replicate p.syncStages true
  lowIn := 0
  lowProc := 0

/-- The instance `p` right after its first reset (R135, R137), with no event to come. -/
def State.resetOf (p : Params) : State where
  cfg := p
  prod := Producer.reset p
  cons := Consumer.reset p
  pipe := Pipeline.reset
  ram := []
  ramKept := []
  rst := ResetUnit.released p
  inbox := []
  inLog := []
  emitted := []
  emittedBefore := []
  work := Workspace.empty
  fnOut := .none
  freeIdx := 0

/-- The default instance right after reset (R6, R135). -/
def State.reset : State := State.resetOf Params.default

end Sys2Proof.Machine
end

