-- ==== Sys2Proof/Machine/Float.lean ====
section
/-! DEFINITION. The binary32 arithmetic of R10 and R52: every operation is the exact result rounded once to nearest, ties
to even, subnormals kept, nothing fused. A magnitude is a natural number of units of 2^-149, the least subnormal, so
products, sums and quotients are exact in naturals and integers and are narrowed in one place, `roundUnits`. An operand that
is a NaN or an infinity, and a result outside the finite range, is the fault NonFinite (R61, R123, R124). -/

namespace Sys2Proof.Machine

/-- Bit 31 (R52). -/
def fsign (a : F32) : Bool := a.getLsbD 31

/-- Bits 30:23 (R52). -/
def fexp (a : F32) : Nat := (a.toNat >>> 23) % 2 ^ 8

/-- Bits 22:0 (R52). -/
def ffrac (a : F32) : Nat := a.toNat % 2 ^ 23

/-- Neither a NaN nor an infinity (R52: e = 255 is neither). -/
def finite (a : F32) : Bool := fexp a != 255

/-- |a| of a finite value, in units of 2^-149 (R52: subnormals have e = 0 and no hidden bit). -/
def funits (a : F32) : Nat := if fexp a = 0 then ffrac a else (ffrac a + 2 ^ 23) <<< (fexp a - 1)

/-- The exact value of a finite word, in units of 2^-149. -/
def fvalue (a : F32) : Int := if fsign a then -(funits a : Int) else (funits a : Int)

/-- `fneg` of R10: flips bit 31 only. -/
def fneg (a : F32) : F32 := a ^^^ 0x80000000#32

/-- `fabs` of R10: clears bit 31 only. -/
def fabs (a : F32) : F32 := a &&& 0x7FFFFFFF#32

/-- The significand position at which `m` units of 2^-(149+k) round: 24 significant bits, but no finer than one unit. -/
def roundPos (m k : Nat) : Nat := max (m.log2 - 23) k

/-- `m / 2^p` rounded to nearest, ties to even (R10). -/
def roundShift (m p : Nat) : Nat :=
  if 2 * (m % 2 ^ p) > 2 ^ p ∨ (2 * (m % 2 ^ p) = 2 ^ p ∧ (m >>> p) % 2 = 1) then m >>> p + 1 else m >>> p

/-- The binary32 word nearest to ±m · 2^-(149+k), ties to even (R10); beyond the finite range, NonFinite. The significand
with its hidden bit is added to the shifted exponent, so a carry out of the significand raises the exponent. -/
def roundUnits (neg : Bool) (m k : Nat) : Except Fault F32 :=
  let mag := roundShift m (roundPos m k) + (roundPos m k - k) <<< 23
  if 0x7F800000 ≤ mag then .error .nonFinite
  else .ok (BitVec.ofNat 32 (if neg then 0x80000000 + mag else mag))

/-- `fadd` of R10. An exact zero sum is +0.0 unless both operands are negative (round to nearest). -/
def fadd (a b : F32) : Except Fault F32 :=
  if finite a && finite b then
    if fvalue a + fvalue b = 0 then .ok (if fsign a && fsign b then 0x80000000#32 else 0x00000000#32)
    else roundUnits (decide (fvalue a + fvalue b < 0)) (fvalue a + fvalue b).natAbs 0
  else .error .nonFinite

/-- `fsub` of R10: a − b is a + (−b), bit for bit. -/
def fsub (a b : F32) : Except Fault F32 := fadd a (fneg b)

/-- `fmul` of R10. The product of units is in units of 2^-298. -/
def fmul (a b : F32) : Except Fault F32 :=
  if finite a && finite b then roundUnits (fsign a != fsign b) (funits a * funits b) 149 else .error .nonFinite

/-- `fdiv` of R10. The quotient is taken to 2^-151 and its remainder kept as one sticky bit below; the only divisors of the
CORE are TWO_PI, f32(2^s) and 256 (R124), and a zero divisor is the fault. -/
def fdiv (a b : F32) : Except Fault F32 :=
  if finite a && finite b && funits b != 0 then
    roundUnits (fsign a != fsign b)
      (2 * ((funits a <<< 151) / funits b) + (if (funits a <<< 151) % funits b = 0 then 0 else 1)) 3
  else .error .nonFinite

/-- ⌊a⌋ of a finite word, as an integer (R9). -/
def floorInt (a : F32) : Int := fvalue a / (2 ^ 149 : Int)

/-- trunc(a) of a finite word, as an integer: round toward zero (R9). -/
def truncInt (a : F32) : Int :=
  if fsign a then -((funits a >>> 149 : Nat) : Int) else ((funits a >>> 149 : Nat) : Int)

/-- `f32(k)` of R10: exact for |k| ≤ 2^24 and for every integer that is the floor of a binary32 value. -/
def f32OfInt (k : Int) : Except Fault F32 := roundUnits (decide (k < 0)) (k.natAbs <<< 149) 0

/-- TWO_PI of R8. -/
def twoPi : F32 := 0x40C90FDB#32

/-- HALF_PI of R8. -/
def halfPi : F32 := 0x3FC90FDB#32

/-- +0.0 (R52). -/
def fzero : F32 := 0x00000000#32

/-- 1.0 (R52). -/
def fone : F32 := 0x3F800000#32

/-- 256.0 (R52): the divisor of R79 and R80. -/
def f256 : F32 := 0x43800000#32

/-- 360.0 (R52): the table size of R65 step 4. -/
def f360 : F32 := 0x43B40000#32

/-- `cadd` of R11. -/
def cadd (a b : Cplx) : Except Fault Cplx := do
  return ⟨← fadd a.re b.re, ← fadd a.im b.im⟩

/-- `csub` of R11. -/
def csub (a b : Cplx) : Except Fault Cplx := do
  return ⟨← fsub a.re b.re, ← fsub a.im b.im⟩

/-- `cmul` of R11 and R73: four rounded products and two rounded sums. -/
def cmul (a b : Cplx) : Except Fault Cplx := do
  return ⟨← fsub (← fmul a.re b.re) (← fmul a.im b.im), ← fadd (← fmul a.re b.im) (← fmul a.im b.re)⟩

/-- (+0.0, +0.0): what the mask writes (R86). -/
def czero : Cplx := ⟨fzero, fzero⟩

/-- (1.0, +0.0): the first twiddle of every block (R75). -/
def cone : Cplx := ⟨fone, fzero⟩

end Sys2Proof.Machine
end

