-- ==== Sys2Proof/Machine/Ops.lean ====
section
/-! DEFINITION. The named operations over the CORE's stores and registers: reading and writing a store, the ring RAM and its
slots (R30, R31), the fault of an unwritten element (R24), and the end of a meaning. There is no exception entry and no
return from one: the CORE has none (R122, R127, R128). -/

namespace Sys2Proof.Machine

/-- The outcome of an operation. -/
abbrev Result := Host.Outcome State Fault Refusal

/-- The end of a meaning whose only stop is a fault of R123. -/
def finish : Except Fault State → Result
  | .ok s => .next s
  | .error f => .fault f

/-- The element at an address, if a rule has written it (R24). -/
def readCell {α : Type} : Store α → Nat → Option α
  | [], _ => none
  | (k, v) :: t, i => if k = i then some v else readCell t i

/-- Writes the element at an address, keeping the addresses strictly rising. -/
def writeCell {α : Type} : Store α → Nat → α → Store α
  | [], i, v => [(i, v)]
  | (k, u) :: t, i, v =>
    if i < k then (i, v) :: (k, u) :: t else if i = k then (i, v) :: t else (k, u) :: writeCell t i v

/-- The canonical form: addresses strictly rising. An unlisted address holds no value, so no entry can equal it. -/
def rising {α : Type} : Store α → Bool
  | [] => true
  | [_] => true
  | (i, _) :: (j, v) :: t => i < j && rising ((j, v) :: t)

/-- Memory.wf: the ring RAM has the canonical form and lies in 0 … CAP−1 (R30). -/
def Memory.wf (p : Params) (m : List Host.Cell) : Bool := rising m && m.all fun c => c.1 < p.cap

/-- A read of an element: `UnwrittenRead` where no rule has written it (R24, R123). -/
def readElem {α : Type} (st : Store α) (i : Nat) : Except Fault α :=
  match readCell st i with
  | some v => .ok v
  | none => .error .unwrittenRead

/-- Reads elements base … base+n−1 in order. -/
def readRun {α : Type} (st : Store α) (base : Nat) : Nat → Except Fault (List α)
  | 0 => .ok []
  | n + 1 => do
    let v ← readElem st base
    let rest ← readRun st (base + 1) n
    return v :: rest

/-- Writes the elements of a list from address base upward. -/
def writeRun {α : Type} (st : Store α) (base : Nat) : List α → Store α
  | [] => st
  | v :: t => writeRun (writeCell st base v) (base + 1) t

/-- A store whose element i is the list's i-th: a buffer that a rule fills whole. -/
def fullStore {α : Type} (l : List α) : Store α := writeRun [] 0 l

/-- The list's i-th element, for a list that a rule proves long enough (the model's operands are 256 or 512 long);
`UnwrittenRead` beyond its end. -/
def elemOf {α : Type} (l : List α) (i : Nat) : Except Fault α :=
  match l[i]? with
  | some v => .ok v
  | none => .error .unwrittenRead

/-- The RAM address of byte i of slot s: s × 512 + i, taken mod CAP (R12, R31). -/
def ramAddr (p : Params) (slot i : Nat) : Nat := (slot * 512 + i) % p.cap

/-- `RAM[a]` of R12. -/
def ramRead (m : List Host.Cell) (a : Nat) : Except Fault Byte := readElem m a

/-- `RAM[a] <- v` of R12. -/
def ramWrite (m : List Host.Cell) (a : Nat) (v : Byte) : List Host.Cell := writeCell m a v

/-- `MemWrite` of R12: the bytes of the list from byte i of a slot upward, mod CAP. -/
def slotWriteFrom (p : Params) (m : List Host.Cell) (slot i : Nat) : List Byte → List Host.Cell
  | [] => m
  | v :: t => slotWriteFrom p (ramWrite m (ramAddr p slot i) v) slot (i + 1) t

/-- `MemRead` of R12: n bytes from byte i of a slot upward, mod CAP. -/
def slotReadFrom (p : Params) (m : List Host.Cell) (slot i : Nat) : Nat → Except Fault (List Byte)
  | 0 => .ok []
  | n + 1 => do
    let v ← ramRead m (ramAddr p slot i)
    let rest ← slotReadFrom p m slot (i + 1) n
    return v :: rest

/-- The RAM contents at an address, whether written since the last reset or left in place by it (R134 item 4). -/
def State.ramContents (s : State) (a : Nat) : Option Byte :=
  match readCell s.ram a with
  | some v => some v
  | none => readCell s.ramKept a

/-- Lays the cells of `m` over `base`. -/
def overlay (base : List Host.Cell) : List Host.Cell → List Host.Cell
  | [] => base
  | (a, v) :: t => overlay (writeCell base a v) t

/-- (a − b) mod F: the pointer difference of R101 and R102. -/
def ptrDiff (slots a b : Nat) : Nat := (a + (slots - b % slots)) % slots

/-- (a + 1) mod F: a pointer's advance (R109, R116). -/
def ptrNext (slots a : Nat) : Nat := (a + 1) % slots

/-- `gray(b)` of R97. -/
def grayOf (b : Nat) : Nat := b ^^^ (b >>> 1)

/-- The loop of `gray_inv` in R97: `i` bits of the code are left, `b` holds the pointer's bits above them. -/
def grayInvLoop (g : Nat) : Nat → Nat → Nat
  | 0, b => b
  | i + 1, b => grayInvLoop g i (2 * b + (b % 2 + (g >>> i) % 2) % 2)

/-- `gray_inv(g)` of R97 for a code of `width` bits: from the top bit down, each bit of the pointer is the exclusive or of
the one above it and the code's bit. -/
def grayInv (width g : Nat) : Nat := grayInvLoop g width 0

/-- The value of a synchroniser's last flop. -/
def lastFlop (chain : List Nat) : Nat := chain.getLastD 0

/-- One edge of a flop chain: the input into flop 1, each flop into the next (R99). -/
def shiftIn {α : Type} (v : α) (chain : List α) : List α := (v :: chain).take chain.length

/-- Records what a function row returned (log entry 6). -/
def State.returning (s : State) (r : FnResult) : State := { s with fnOut := r }

/-- Draws a fresh free value: the counter moves on (log entry 14). -/
def State.drawn (s : State) : State := { s with freeIdx := s.freeIdx + 1 }

end Sys2Proof.Machine
end

