-- ==== Sys2Proof/Machine/Flags.lean ====
section
/-! DEFINITION. The flag-like quantities, the views and the read-only ports, each computed from the registers it names
(R25, R27, R49, R99, R101, R102). None of them is stored. -/

namespace Sys2Proof.Machine

/-- F of the instance (R8). -/
def State.slots (s : State) : Nat := s.cfg.slots

/-- `hv`, CONS's view of `hf`: gray_inv of the last flop of `hf_sync` (R20, R99). -/
def State.hv (s : State) : Nat := grayInv s.cfg.fptrW (lastFlop s.cons.hfSync)

/-- `tv`, PROD's view of `tf`: gray_inv of the last flop of `tf_sync` (R19, R99). -/
def State.tv (s : State) : Nat := grayInv s.cfg.fptrW (lastFlop s.prod.tfSync)

/-- `frames_ready` = (hv − tf) mod F (R25, R101). -/
def State.framesReady (s : State) : Nat := ptrDiff s.slots s.hv s.cons.tf

/-- `can_commit` ⇔ (hf − tv) mod F ≤ F − 2 (R25, R102). -/
def State.canCommit (s : State) : Bool := ptrDiff s.slots s.prod.hf s.tv + 2 ≤ s.slots

/-- The `clk_in` domain is out of reset: the last flop of its reset synchroniser is 1 (R134). -/
def State.prodOutOfReset (s : State) : Bool := s.rst.rstN && s.rst.inSync.getLastD false

/-- The `clk_proc` domain is out of reset (R134). -/
def State.consOutOfReset (s : State) : Bool := s.rst.rstN && s.rst.procSync.getLastD false

/-- `in_ready`: out of reset and `prod_state` in IDLE or ACCUM (R49 item 2). -/
def State.inReady (s : State) : Bool :=
  s.prodOutOfReset && (s.prod.state == codeIdle || s.prod.state == codeAccum)

/-- `st_prod_state` (R27). -/
def State.stProdState (s : State) : BitVec 2 := s.prod.state

/-- `st_stage_cnt` (R27). -/
def State.stStageCnt (s : State) : BitVec 10 := s.prod.stageCnt

/-- `st_head_idx` (R27). -/
def State.stHeadIdx (s : State) : Nat := s.prod.hf

/-- `st_bp_count` (R27, R111). -/
def State.stBpCount (s : State) : BitVec 32 := s.prod.bpCount

/-- `st_cons_state` (R27). -/
def State.stConsState (s : State) : BitVec 2 := s.cons.state

/-- `st_frames_ready` (R27). -/
def State.stFramesReady (s : State) : Nat := s.framesReady

/-- `st_tail_idx` (R27). -/
def State.stTailIdx (s : State) : Nat := s.cons.tf

/-- The byte cursor `head` of R21. -/
def State.headCursor (s : State) : Nat := (s.prod.hf * 512) % s.cfg.cap

/-- The byte cursor `tail` of R21. -/
def State.tailCursor (s : State) : Nat := (s.cons.tf * 512) % s.cfg.cap

end Sys2Proof.Machine
end

