-- ==== Sys2Proof/Machine/Operands.lean ====
section
/-! DEFINITION. The operand forms: where the operands of an operation stand in the state, and how a frame's bytes and its
Samples correspond (R35, R50, R51, R91, R94). -/

namespace Sys2Proof.Machine

/-- `sext_16({hi, lo})` of R35 and R91: the Sample a byte pair forms. -/
def sampleOf (lo hi : Byte) : Sample := hi ++ lo

/-- `v[7:0]` of R34. -/
def lowByte (v : Sample) : Byte := v.extractLsb' 0 8

/-- `v[15:8]` of R34. -/
def highByte (v : Sample) : Byte := v.extractLsb' 8 8

/-- `unpack` of R91: the Samples of a frame's bytes. -/
def unpackBytes : List Byte → List Sample
  | lo :: hi :: t => sampleOf lo hi :: unpackBytes t
  | _ => []

/-- `pack` of R94: the payload bytes of the Samples. -/
def packSamples : List Sample → List Byte
  | [] => []
  | v :: t => lowByte v :: highByte v :: packSamples t

/-- The bytes of the frame in ring slot `tf`, the operand of UNPACK (R116). -/
def State.tailFrameBytes (s : State) : Except Fault (List Byte) := slotReadFrom s.cfg s.ram s.cons.tf 0 512

/-- The Samples of FIN, the operand of FFT and FILTER (R117). -/
def State.finSamples (s : State) : Except Fault (List Sample) := do
  return unpackBytes (← readRun s.cons.fin 0 512)

/-- FIN[i] of R20. -/
def State.finSample (s : State) (i : Nat) : Except Fault Sample := do
  return sampleOf (← readElem s.cons.fin (2 * i)) (← readElem s.cons.fin (2 * i + 1))

/-- The Samples of FOUT, the operand of PACK (R118). -/
def State.foutSamples (s : State) : Except Fault (List Sample) := readRun s.cons.fout 0 256

/-- The spectrum X[0..255], the operand of BITREV, MASK, IFFT_SUM and IFFT (R23). -/
def Workspace.spectrum (w : Workspace) : Except Fault (List Cplx) := readRun w.x 0 256

/-- The arrays of functions called by name are `w` (log entry 6). -/
def State.withWork (s : State) (w : Workspace) : State := { s with work := w }

/-- `byte(e)` of R118: the byte of the output frame at index e. -/
def State.outByte (s : State) (e : Nat) : Except Fault Byte :=
  if e = 0 then .ok sofByte
  else if e = 513 then .ok eofByte
  else if 513 < e then .error .emitOverflow
  else do
    let v ← readElem s.cons.fout ((e - 1) / 2)
    return if e % 2 = 1 then lowByte v else highByte v

end Sys2Proof.Machine
end

