-- ==== Sys2Proof/Machine/Trig.lean ====
section
/-! DEFINITION. `twiddle_rom`: ROM_READ, COS and SIN (40_twiddle_rom.md). -/

namespace Sys2Proof.Machine

/-- `ROM[i]` of R64; an address of 360 or more is the fault of R61. -/
def romWord (i : Nat) : Except Fault F32 :=
  match romImage[i]? with
  | some v => .ok v
  | none => .error .romAddress

/-- `cosine(θ)`, the nine lines of R65 in their order. -/
def cosine (t : F32) : Except Fault F32 :=
  if finite t then do
    let a := fabs t
    let q ← f32OfInt (floorInt (← fdiv a twoPi))
    let r ← fsub a (← fmul q twoPi)
    let x ← fmul (← fdiv r twoPi) f360
    let i0 := floorInt x
    let f ← fsub x (← f32OfInt i0)
    let i := (i0 % 360).toNat
    let j := (i + 1) % 360
    let t0 ← romWord i
    let t1 ← romWord j
    fadd t0 (← fmul f (← fsub t1 t0))
  else .error .trigNonFinite

/-- `sine(θ)` of R66; θ < 0 is strict, so −0.0 takes the non-negative branch. -/
def sine (t : F32) : Except Fault F32 :=
  if finite t then
    if fvalue t < 0 then do return fneg (← cosine (← fsub halfPi (fneg t)))
    else do cosine (← fsub halfPi t)
  else .error .trigNonFinite

/-- ROM_READ (R64). -/
def execRomRead (a : BitVec 9) (s : State) : Result := finish do
  return s.returning (.word (← romWord a.toNat))

/-- COS (R65). -/
def execCos (t : F32) (s : State) : Result := finish do
  return s.returning (.word (← cosine t))

/-- SIN (R66). -/
def execSin (t : F32) (s : State) : Result := finish do
  return s.returning (.word (← sine t))

end Sys2Proof.Machine
end

