-- ==== Sys2Proof/Machine/Fft.lean ====
section
/-! DEFINITION. `streaming_fft`: BITREV, STAGE_TW, CMUL, BUTTERFLY and FFT (41_streaming_fft.md). An array row called
by name works on the arrays of `State.work`; the sequencer works on the CORE's own (R16, R58; log entry 6). -/

namespace Sys2Proof.Machine

/-- Applies a checked function to every element, in order. -/
def mapChecked {α β : Type} (f : α → Except Fault β) : List α → Except Fault (List β)
  | [] => .ok []
  | a :: t => do
    let b ← f a
    let rest ← mapChecked f t
    return b :: rest

/-- `widen` of R92, used by R70. -/
def widenSample (v : Sample) : Except Fault F32 := f32OfInt v.toInt

/-- One element of R70: (widen(s), +0.0). -/
def widenComplex (v : Sample) : Except Fault Cplx := do
  return ⟨← widenSample v, fzero⟩

/-- Exchanges two elements of an array (R71 `swap X[i], X[j]`). -/
def swapElems {α : Type} (l : List α) (i j : Nat) : List α :=
  match l[i]?, l[j]? with
  | some a, some b => (l.set i b).set j a
  | _, _ => l

/-- `while k <= j: j <- j - k ; k <- k / 2`, then `j <- j + k` (R71): the mirrored counter's increment. At most `fuel` turns
of the loop are needed for a counter of `fuel` bits. -/
def mirrorNext : Nat → Nat → Nat → Nat
  | 0, k, j => j + k
  | fuel + 1, k, j => if k ≤ j then mirrorNext fuel (k / 2) (j - k) else j + k

/-- The Gold–Rader loop of R71 from index i with mirrored counter j, for n more indices. -/
def goldRader {α : Type} : Nat → Nat → Nat → List α → List α
  | 0, _, _, l => l
  | n + 1, i, j, l => goldRader n (i + 1) (mirrorNext 8 128 j) (if i < j then swapElems l i j else l)

/-- `bitrev` of R71 on the 256 elements: indices 0 … 254, mirrored counter from 0. -/
def bitReverse {α : Type} (l : List α) : List α := goldRader 255 0 0 l

/-- rev8(i) of R71: the 8 bits of i reversed. -/
def rev8 (i : Nat) : Nat :=
  (i % 2) * 128 + (i / 2 % 2) * 64 + (i / 4 % 2) * 32 + (i / 8 % 2) * 16 + (i / 16 % 2) * 8 + (i / 32 % 2) * 4 +
    (i / 64 % 2) * 2 + i / 128 % 2

/-- θs of R72 for the stage s. -/
def stageAngle (s : Nat) : Except Fault F32 := do fdiv (fneg twoPi) (← f32OfInt ((2 ^ s : Nat) : Int))

/-- wm of R72 for the stage s: (cosine(θs), sine(θs)). -/
def stageTwiddle (s : Nat) : Except Fault Cplx := do
  let θ ← stageAngle s
  return ⟨← cosine θ, ← sine θ⟩

/-- w_j of R75: w_0 = (1.0, +0.0) and w_{j+1} = cmul(w_j, wm). -/
def twiddlePower (wm : Cplx) : Nat → Except Fault Cplx
  | 0 => .ok cone
  | j + 1 => do cmul (← twiddlePower wm j) wm

/-- The two values of R74: t = cmul(w, odd); (even + t, even − t). -/
def butterflyPair (w even odd : Cplx) : Except Fault (Cplx × Cplx) := do
  let t ← cmul w odd
  return (← cadd even t, ← csub even t)

/-- `BUTTERFLY(p, h, w)` of R74 on the array: both writes use the old values. -/
def butterflyAt (h p : Nat) (w : Cplx) (x : List Cplx) : Except Fault (List Cplx) := do
  let r ← butterflyPair w (← elemOf x p) (← elemOf x (p + h))
  return (x.set p r.1).set (p + h) r.2

/-- The j loop of R75 in one block: n more butterflies from position p, with the current twiddle w. -/
def blockLoop (wm : Cplx) (h : Nat) : Nat → Nat → Cplx → List Cplx → Except Fault (List Cplx)
  | 0, _, _, x => .ok x
  | n + 1, p, w, x => do
    let x' ← butterflyAt h p w x
    let w' ← cmul w wm
    blockLoop wm h n (p + 1) w' x'

/-- The k loop of R75: n more blocks of 2h positions from position k. -/
def stageLoop (wm : Cplx) (h : Nat) : Nat → Nat → List Cplx → Except Fault (List Cplx)
  | 0, _, x => .ok x
  | n + 1, k, x => do
    let x' ← blockLoop wm h h k cone x
    stageLoop wm h n (k + 2 * h) x'

/-- One stage of R75. -/
def fftStage (st : Nat) (x : List Cplx) : Except Fault (List Cplx) := do
  let wm ← stageTwiddle st
  stageLoop wm (2 ^ (st - 1)) (2 ^ (8 - st)) 0 x

/-- The st loop of R75: n more stages from stage st. -/
def fftStages : Nat → Nat → List Cplx → Except Fault (List Cplx)
  | 0, _, x => .ok x
  | n + 1, st, x => do
    let x' ← fftStage st x
    fftStages n (st + 1) x'

/-- `fft(s)` of R75. -/
def fftFrame (v : List Sample) : Except Fault (List Cplx) := do
  let x ← mapChecked widenComplex v
  fftStages 8 1 (bitReverse x)

/-- Fills the spectrum. -/
def Workspace.withSpectrum (w : Workspace) (x : List Cplx) : Workspace := { w with x := fullStore x }

/-- BITREV (R71): permutes X; returns X[i]. -/
def execBitrev (i : BitVec 8) (s : State) : Result := finish do
  let x := bitReverse (← s.work.spectrum)
  return (s.withWork (s.work.withSpectrum x)).returning (.complex (← elemOf x i.toNat))

/-- STAGE_TW (R72). -/
def execStageTw (st : BitVec 4) (s : State) : Result :=
  if 1#4 ≤ st ∧ st ≤ 8#4 then finish do return s.returning (.complex (← stageTwiddle st.toNat))
  else .refused .badOperand

/-- CMUL (R73). -/
def execCmul (a b : Cplx) (s : State) : Result := finish do
  return s.returning (.complex (← cmul a b))

/-- The operand range of BUTTERFLY (`spec/opcode_table.json`): a stage 1 … 8 and a position j < h in a group whose first
position is a multiple of 2^s. -/
def butterflyInRange (st : BitVec 4) (p : BitVec 8) (j : BitVec 7) : Bool :=
  1#4 ≤ st && st ≤ 8#4 && j.toNat < 2 ^ (st.toNat - 1) && p.toNat % 2 ^ st.toNat == j.toNat

/-- BUTTERFLY (R74): updates X[p] and X[p + h] with w_j of the stage; returns the new X[p]. -/
def execButterfly (st : BitVec 4) (p : BitVec 8) (j : BitVec 7) (s : State) : Result :=
  if butterflyInRange st p j then finish do
    let w ← twiddlePower (← stageTwiddle st.toNat) j.toNat
    let h := 2 ^ (st.toNat - 1)
    let r ← butterflyPair w (← readElem s.work.x p.toNat) (← readElem s.work.x (p.toNat + h))
    let x := writeCell (writeCell s.work.x p.toNat r.1) (p.toNat + h) r.2
    return (s.withWork { s.work with x := x }).returning (.complex r.1)
  else .refused .badOperand

/-- FFT (R75): X becomes the transform of FIN; returns X[k]. -/
def execFft (k : BitVec 8) (s : State) : Result := finish do
  let x ← fftFrame (← s.finSamples)
  return (s.withWork (s.work.withSpectrum x)).returning (.complex (← elemOf x k.toNat))

end Sys2Proof.Machine
end

