-- ==== Sys2Proof/Machine/Ifft.lean ====
section
/-! DEFINITION. `streaming_ifft`: IFFT_TW, IFFT_SUM and IFFT (42_streaming_ifft.md), the direct summation. -/

namespace Sys2Proof.Machine

/-- φp of R79: fmul rounds, then fdiv by 256. -/
def phaseAngle (p : Nat) : Except Fault F32 := do fdiv (← fmul twoPi (← f32OfInt (p : Int))) f256

/-- The pair (COSP[p], SINP[p]) of R79, as (re, im). -/
def phasePair (p : Nat) : Except Fault Cplx := do
  let φ ← phaseAngle p
  return ⟨← cosine φ, ← sine φ⟩

/-- The 256 pairs of R79. -/
def phaseTable : Except Fault (List Cplx) := mapChecked phasePair (List.range 256)

/-- One turn of R80: acc + (re·COSP − im·SINP). -/
def sumTerm (acc : F32) (z c : Cplx) : Except Fault F32 := do
  fadd acc (← fsub (← fmul z.re c.re) (← fmul z.im c.im))

/-- The k loop of R80, from bin k, over the bins that are left. -/
def sumLoop (table : List Cplx) (n : Nat) : Nat → List Cplx → F32 → Except Fault F32
  | _, [], acc => .ok acc
  | k, z :: rest, acc => do
    let acc' ← sumTerm acc z (← elemOf table ((k * n) % 256))
    sumLoop table n (k + 1) rest acc'

/-- y[n] of R80: acc from +0.0 over ascending k, then fdiv by 256. -/
def ifftSum (table x : List Cplx) (n : Nat) : Except Fault F32 := do fdiv (← sumLoop table n 0 x fzero) f256

/-- `ifft(X)` of R81. -/
def ifftFrame (table x : List Cplx) : Except Fault (List F32) := mapChecked (ifftSum table x) (List.range 256)

/-- Fills the phase tables COSP and SINP. -/
def Workspace.withPhaseTable (w : Workspace) (table : List Cplx) : Workspace :=
  { w with cosp := fullStore (table.map Cplx.re), sinp := fullStore (table.map Cplx.im) }

/-- Fills y. -/
def Workspace.withOutputs (w : Workspace) (y : List F32) : Workspace := { w with y := fullStore y }

/-- IFFT_TW (R79): writes COSP[p] and SINP[p]; returns the pair. -/
def execIfftTw (p : BitVec 8) (s : State) : Result := finish do
  let c ← phasePair p.toNat
  return (s.withWork { s.work with
    cosp := writeCell s.work.cosp p.toNat c.re, sinp := writeCell s.work.sinp p.toNat c.im }).returning (.complex c)

/-- IFFT_SUM (R80): writes y[n]; returns it. Its operands are X and n; each table entry is the value that evaluating the
same angle gives (R79), so the sum does not wait for IFFT_TW to have filled the tables (log entry 29). -/
def execIfftSum (n : BitVec 8) (s : State) : Result := finish do
  let x ← s.work.spectrum
  let v ← ifftSum (← phaseTable) x n.toNat
  return (s.withWork { s.work with y := writeCell s.work.y n.toNat v }).returning (.word v)

/-- IFFT (R81): fills COSP, SINP and y from X; returns y[n]. -/
def execIfft (n : BitVec 8) (s : State) : Result := finish do
  let x ← s.work.spectrum
  let table ← phaseTable
  let y ← ifftFrame table x
  return (s.withWork ((s.work.withPhaseTable table).withOutputs y)).returning (.word (← elemOf y n.toNat))

end Sys2Proof.Machine
end

