-- ==== Sys2Proof/Machine/Mask.lean ====
section
/-! DEFINITION. `bandpass_spectral_mask`: KBOUNDS and MASK (43_bandpass_mask.md). -/

namespace Sys2Proof.Machine

/-- Whether the mask zeroes bin i (R86). -/
def masked (kMin kMax i : Nat) : Bool := i < kMin || kMax < i

/-- The loop of R86 from bin i over the bins that are left: a masked bin becomes (+0.0, +0.0), any other is unchanged. -/
def maskFrom (kMin kMax : Nat) : Nat → List Cplx → List Cplx
  | _, [] => []
  | i, z :: t => (if masked kMin kMax i then czero else z) :: maskFrom kMin kMax (i + 1) t

/-- `mask(X, K_MIN, K_MAX)` of R86. -/
def maskSpectrum (kMin kMax : Nat) (x : List Cplx) : List Cplx := maskFrom kMin kMax 0 x

/-- KBOUNDS (R85): an elaboration-time function of its operands. It returns the bounds and changes no parameter of the
instance (R6, R29); a sample rate of 0 is what elaboration rejects (R7, R85). -/
def execKbounds (r l h : BitVec 32) (s : State) : Result :=
  if r = 0#32 then .refused .elabRejected
  else .next (s.returning (.bounds (binOf r.toNat l.toNat) (binOf r.toNat h.toNat)))

/-- MASK (R86), with the bounds of the instance: masks the spectrum in place; returns X[i]. -/
def execMask (i : BitVec 8) (s : State) : Result := finish do
  let x := maskSpectrum s.cfg.kMin s.cfg.kMax (← s.work.spectrum)
  return (s.withWork (s.work.withSpectrum x)).returning (.complex (← elemOf x i.toNat))

end Sys2Proof.Machine
end

