-- ==== Sys2Proof/Machine/Convert.lean ====
section
/-! DEFINITION. `fixed_point_converter` and the Frame Filter Pipeline: UNPACK, WIDEN, NARROW, PACK and FILTER
(44_fixed_point_pipeline.md). -/

namespace Sys2Proof.Machine

/-- `narrow(y)` of R93: truncate toward zero, keep bits 15:0 (wrap, no saturation). -/
def narrowWord (y : F32) : Except Fault Sample :=
  if finite y then
    if 2 ^ 31 ≤ funits y >>> 149 then .error .narrowRange else .ok (BitVec.ofInt 16 (truncInt y))
  else .error .nonFinite

/-- What one run of the pipeline leaves: the masked spectrum, the phase tables, y and the output frame (R95). -/
structure Filtered where
  /-- X after the mask. -/
  x : List Cplx
  /-- (COSP, SINP). -/
  table : List Cplx
  /-- y. -/
  y : List F32
  /-- The filtered Samples. -/
  out : List Sample
  deriving DecidableEq, Repr

/-- `filterFrame(s)` of R95, with every stage's result. -/
def filterFrame (kMin kMax : Nat) (v : List Sample) : Except Fault Filtered := do
  let x := maskSpectrum kMin kMax (← fftFrame v)
  let table ← phaseTable
  let y ← ifftFrame table x
  let out ← mapChecked narrowWord y
  return ⟨x, table, y, out⟩

/-- The working storage after a run of the pipeline. -/
def Workspace.withFiltered (w : Workspace) (r : Filtered) : Workspace :=
  ((w.withSpectrum r.x).withPhaseTable r.table).withOutputs r.y

/-- UNPACK (R91) of the frame in ring slot tf (R116; log entry 8): returns Sample i. Slot tf is read only while hv ≠ tf (R42
point 2); otherwise the read is the one R123 forbids. -/
def execUnpack (i : BitVec 8) (s : State) : Result :=
  if s.framesReady = 0 then .fault .ringOverrun
  else finish do
    let v := unpackBytes (← s.tailFrameBytes)
    return s.returning (.sample (← elemOf v i.toNat))

/-- WIDEN (R92). -/
def execWiden (v : Sample) (s : State) : Result := finish do
  return s.returning (.word (← widenSample v))

/-- NARROW (R93). -/
def execNarrow (y : F32) (s : State) : Result := finish do
  return s.returning (.sample (← narrowWord y))

/-- PACK (R94) of FOUT: returns payload bytes 2i and 2i+1. -/
def execPack (i : BitVec 8) (s : State) : Result := finish do
  let p := packSamples (← s.foutSamples)
  return s.returning (.bytes (← elemOf p (2 * i.toNat)) (← elemOf p (2 * i.toNat + 1)))

/-- FILTER (R95) of FIN: returns out[n], and leaves the arrays of the run in `State.work`. FOUT is not written (R58: a function
changes no state). -/
def execFilter (n : BitVec 8) (s : State) : Result := finish do
  let r ← filterFrame s.cfg.kMin s.cfg.kMax (← s.finSamples)
  return (s.withWork (s.work.withFiltered r)).returning (.sample (← elemOf r.out n.toNat))

end Sys2Proof.Machine
end

