-- ==== Sys2Proof/Machine/Consumer.lean ====
section
/-! DEFINITION. `consumer_fsm`: DEQUEUE, PROCESS, EMIT_SOF, EMIT_DATA and EMIT_EOF (47_consumer_fsm.md). -/

namespace Sys2Proof.Machine

/-- The publication of R116: `tf` advances and CONS starts to process, with the sequencer at its first loop. -/
def State.dequeuePublished (s : State) : State :=
  { s with
    cons := { s.cons with tf := ptrNext s.slots s.cons.tf, dqActive := false, state := codeProcessing }
    pipe := { s.pipe with phase := .widen, stageCtr := 0, blockCtr := 0, indexCtr := 0 } }

/-- R116: FIN is the frame of slot `tf`, then the publication. The cycle level's read index stands where its last read
leaves it (R120; log entry 9). -/
def State.dequeued (s : State) (frame : List Byte) : State :=
  { s with cons := { s.cons with fin := fullStore frame, rdIdx := 511#9 } }.dequeuePublished

/-- The end of PROCESSING (R117, R120): the first byte of the output frame is offered. -/
def State.processPublished (s : State) : State :=
  { s with cons := { s.cons with emitIdx := 0#10, outData := sofByte, outValid := true, state := codeEmitting } }

/-- R117: FOUT is the filtered frame, and the working storage is that of the run. -/
def State.processed (s : State) (r : Filtered) : State :=
  { s with
    cons := { s.cons with fout := fullStore r.out }
    pipe := { s.pipe with toWorkspace := s.pipe.toWorkspace.withFiltered r } }.processPublished

/-- The byte `out_data` holds at index e of the output frame; unchanged where FOUT holds no value (unreachable). -/
def State.nextOutData (s : State) (e : Nat) : Byte :=
  match s.outByte e with
  | .ok b => b
  | .error _ => s.cons.outData

/-- `emit b` of R118, and the move to the next index: after the last byte CONS waits again and `out_data` keeps it (I16). -/
def State.emitting (s : State) (b : Byte) : State :=
  if s.cons.emitIdx = 513#10 then
    { s with
      cons := { s.cons with emitIdx := 0#10, outValid := false, outData := b, state := codeWaiting }
      emitted := s.emitted ++ [b] }
  else
    { s with
      cons := { s.cons with
        emitIdx := s.cons.emitIdx + 1#10
        outValid := true
        outData := s.nextOutData (s.cons.emitIdx.toNat + 1) }
      emitted := s.emitted ++ [b] }

/-- DEQUEUE (R116). In WAITING with no frame known to be ready the read would overrun the ring (R123). -/
def execDequeue (s : State) : Result :=
  if s.cons.state = codeUnused then .fault .badStateCode
  else if !s.consOutOfReset || s.cons.state != codeWaiting then .refused .notEnabled
  else if s.framesReady = 0 then .fault .ringOverrun
  else finish do return s.dequeued (← s.tailFrameBytes)

/-- PROCESS (R117); frames_ready is ignored. -/
def execProcess (_f : BitVec 1) (s : State) : Result :=
  if s.cons.state = codeUnused then .fault .badStateCode
  else if !s.consOutOfReset || s.cons.state != codeProcessing then .refused .notEnabled
  else finish do return s.processed (← filterFrame s.cfg.kMin s.cfg.kMax (← s.finSamples))

/-- What the three EMIT rows share (R118): CONS is in EMITTING and its index is in range. -/
def emitGuarded (s : State) (enabled : Bool) (meaning : Result) : Result :=
  if s.cons.state = codeUnused then .fault .badStateCode
  else if !s.consOutOfReset || s.cons.state != codeEmitting then .refused .notEnabled
  else if 513#10 < s.cons.emitIdx then .fault .emitOverflow
  else if enabled then meaning
  else .refused .notEnabled

/-- EMIT_SOF (R118). -/
def execEmitSof (s : State) : Result := emitGuarded s (s.cons.emitIdx == 0#10) (.next (s.emitting sofByte))

/-- EMIT_DATA (R118): the payload byte of FOUT at the index. The word's index and byte must be those CONS offers (R60). -/
def execEmitData (e : BitVec 10) (d : Byte) (s : State) : Result :=
  emitGuarded s (s.cons.emitIdx == e && 1#10 ≤ e && e ≤ 512#10)
    (match s.outByte e.toNat with
     | .error f => .fault f
     | .ok b => if b = d then .next (s.emitting b) else .refused .notEnabled)

/-- EMIT_EOF (R118). -/
def execEmitEof (s : State) : Result := emitGuarded s (s.cons.emitIdx == 513#10) (.next (s.emitting eofByte))

end Sys2Proof.Machine
end

