-- ==== Sys2Proof/Machine/Fifo.lean ====
section
/-! DEFINITION. `async_fifo`: GRAY_ENC, GRAY_DEC, SYNC_H and SYNC_T (45_async_fifo.md). -/

namespace Sys2Proof.Machine

/-- GRAY_ENC (R97) of a pointer of FPTR_W bits. -/
def execGrayEnc (b : Nat) (s : State) : Result :=
  if b < 2 ^ s.cfg.fptrW then .next (s.returning (.pointer (grayOf b))) else .refused .badOperand

/-- GRAY_DEC (R97) of a code of FPTR_W bits. -/
def execGrayDec (g : Nat) (s : State) : Result :=
  if g < 2 ^ s.cfg.fptrW then .next (s.returning (.pointer (grayInv s.cfg.fptrW g))) else .refused .badOperand

/-- `hv <- hf` (R98): the Gray code of `hf` crosses into every flop of the consumer's chain (log entry 9). -/
def State.headCrossed (s : State) : State :=
  { s with
    prod := { s.prod with hfGray := grayOf s.prod.hf }
    cons := { s.cons with hfSync := s.cons.hfSync.map fun _ => grayOf s.prod.hf } }

/-- `tv <- tf` (R98): the Gray code of `tf` crosses into every flop of the producer's chain. -/
def State.tailCrossed (s : State) : State :=
  { s with
    cons := { s.cons with tfGray := grayOf s.cons.tf }
    prod := { s.prod with tfSync := s.prod.tfSync.map fun _ => grayOf s.cons.tf } }

/-- SYNC_H (R98): always enabled out of reset. The code it carries is the state's; the word's copy of it is not read. -/
def execSyncH (_g : Nat) (s : State) : Result :=
  if s.consOutOfReset then .next s.headCrossed else .refused .notEnabled

/-- SYNC_T (R98). -/
def execSyncT (_g : Nat) (s : State) : Result :=
  if s.prodOutOfReset then .next s.tailCrossed else .refused .notEnabled

end Sys2Proof.Machine
end

