-- ==== Sys2Proof/Machine/Producer.lean ====
section
/-! DEFINITION. `frame_aggregator`: ACCEPT, COMMIT_OK and COMMIT_BP (46_frame_aggregator.md). -/

namespace Sys2Proof.Machine

/-- `accept d` of R108: STAGE[stage_cnt] <- d, the count and the state move on. Entering COMMIT sets `cphase` to CHECK (R113). -/
def State.accepted (s : State) (d : Byte) : State :=
  { s with
    prod := { s.prod with
      stage := writeCell s.prod.stage s.prod.stageCnt.toNat d
      stageCnt := s.prod.stageCnt + 1#10
      state := if s.prod.stageCnt + 1#10 = 512#10 then codeCommit else codeAccum
      cphase := if s.prod.stageCnt + 1#10 = 512#10 then .check else s.prod.cphase }
    inLog := s.inLog ++ [d] }

/-- The publication of R109: `hf` advances, the staging area and `bp_flag` are reset, PROD returns to IDLE. -/
def State.commitPublished (s : State) : State :=
  { s with prod := { s.prod with
      hf := ptrNext s.slots s.prod.hf
      stageCnt := 0#10
      bpFlag := false
      state := codeIdle
      cphase := .check } }

/-- R109: the staged bytes go to the slot of `hf`, then the publication. The cycle level's copy index stands where its
last COPY edge leaves it (R113; log entry 9). -/
def State.committed (s : State) (frame : List Byte) : State :=
  { s with
    ram := slotWriteFrom s.cfg s.ram s.prod.hf 0 frame
    prod := { s.prod with copyIdx := 511#9 } }.commitPublished

/-- R110: `bp_count` counts the frame at its first failed check. -/
def State.backpressured (s : State) : State :=
  if s.prod.bpFlag then s
  else { s with prod := { s.prod with bpCount := s.prod.bpCount + 1#32, bpFlag := true } }

/-- ACCEPT (R108). The word's state bit must be the agent's (R60); can_commit is ignored. -/
def execAccept (st _c : BitVec 1) (d : Byte) (s : State) : Result :=
  if s.prod.state = codeUnused then .fault .badStateCode
  else if !s.inReady || s.prod.state != st.setWidth 2 then .refused .notEnabled
  else if 512#10 ≤ s.prod.stageCnt then .fault .stageOverflow
  else .next (s.accepted d)

/-- COMMIT_OK (R109). In COMMIT without `can_commit` the commit would overrun the ring (R123). -/
def execCommitOk (_v : BitVec 1) (_x : Byte) (s : State) : Result :=
  if s.prod.state = codeUnused then .fault .badStateCode
  else if !s.prodOutOfReset || s.prod.state != codeCommit then .refused .notEnabled
  else if !s.canCommit then .fault .ringOverrun
  else finish do return s.committed (← readRun s.prod.stage 0 512)

/-- COMMIT_BP (R110). -/
def execCommitBp (_v : BitVec 1) (_x : Byte) (s : State) : Result :=
  if s.prod.state = codeUnused then .fault .badStateCode
  else if !s.prodOutOfReset || s.prod.state != codeCommit || s.canCommit then .refused .notEnabled
  else .next s.backpressured

end Sys2Proof.Machine
end

