-- ==== Sys2Proof/Machine/ResetOp.lean ====
section
/-! DEFINITION. RESET and the reset line (70_reset_and_hazards.md R134 to R136). -/

namespace Sys2Proof.Machine

/-- R134, R135, R136: every register of both domains takes its reset value, the RAM keeps its contents, the step in
progress is abandoned, and what SINK has taken stays taken. `line` is the state of the reset line. -/
def State.registersReset (s : State) (line : ResetUnit) : State :=
  { State.resetOf s.cfg with
    ramKept := overlay s.ramKept s.ram
    rst := line
    inbox := s.inbox
    emittedBefore := s.emittedBefore ++ s.emitted
    freeIdx := s.freeIdx }

/-- RESET (R134 item 4): assertion and release as one event; enabled in every state. -/
def execReset (s : State) : Result := .next (s.registersReset (ResetUnit.released s.cfg))

/-- Elaboration and the first reset (R7, R137): an instance that R7 rejects never exists. -/
def elaborate (p : Params) : Option State := if p.rejected then none else some (State.resetOf p)

/-- The reset line while `rst_n` is 0: both synchronisers cleared, no edge counted yet. -/
def ResetUnit.asserted (p : Params) : ResetUnit where
  rstN := false
  inSync := List.replicate p.syncStages false
  procSync := List.replicate p.syncStages false
  lowIn := 0
  lowProc := 0

/-- `rst_n` takes a level (R134 items 1 to 3). Assertion is asynchronous; release only lets the synchronisers count up, and
before SYNC_STAGES + 1 edges of each clock it is undefined (I13). -/
def resetLine (level : Bool) (s : State) : Result :=
  if level = s.rst.rstN then .next s
  else if level then
    if s.cfg.syncStages + 1 ≤ s.rst.lowIn ∧ s.cfg.syncStages + 1 ≤ s.rst.lowProc then
      .next { s with rst := { s.rst with rstN := true } }
    else .refused .shortReset
  else .next (s.registersReset (ResetUnit.asserted s.cfg))

end Sys2Proof.Machine
end

