-- ==== Sys2Proof/Machine/Dispatch.lean ====
section
/-! DEFINITION. The meaning of every operation of `spec/opcode_table.json`, one arm per row. -/

namespace Sys2Proof.Machine

def exec (i : Instr) (s : State) : Host.Outcome State Fault Refusal :=
  match i with
  | .romRead a => Sys2Proof.Machine.execRomRead a s
  | .cos t => Sys2Proof.Machine.execCos t s
  | .sin t => Sys2Proof.Machine.execSin t s
  | .bitrev k => Sys2Proof.Machine.execBitrev k s
  | .stageTw st => Sys2Proof.Machine.execStageTw st s
  | .cmul a b => Sys2Proof.Machine.execCmul a b s
  | .butterfly st p j => Sys2Proof.Machine.execButterfly st p j s
  | .fft k => Sys2Proof.Machine.execFft k s
  | .ifftTw p => Sys2Proof.Machine.execIfftTw p s
  | .ifftSum n => Sys2Proof.Machine.execIfftSum n s
  | .ifft n => Sys2Proof.Machine.execIfft n s
  | .kbounds r l h => Sys2Proof.Machine.execKbounds r l h s
  | .mask k => Sys2Proof.Machine.execMask k s
  | .unpack k => Sys2Proof.Machine.execUnpack k s
  | .widen v => Sys2Proof.Machine.execWiden v s
  | .narrow y => Sys2Proof.Machine.execNarrow y s
  | .pack k => Sys2Proof.Machine.execPack k s
  | .filter n => Sys2Proof.Machine.execFilter n s
  | .grayEnc b => Sys2Proof.Machine.execGrayEnc b s
  | .grayDec g => Sys2Proof.Machine.execGrayDec g s
  | .syncH g => Sys2Proof.Machine.execSyncH g s
  | .syncT g => Sys2Proof.Machine.execSyncT g s
  | .accept st c d => Sys2Proof.Machine.execAccept st c d s
  | .commitOk v x => Sys2Proof.Machine.execCommitOk v x s
  | .commitBp v x => Sys2Proof.Machine.execCommitBp v x s
  | .dequeue => Sys2Proof.Machine.execDequeue s
  | .process f => Sys2Proof.Machine.execProcess f s
  | .emitSof => Sys2Proof.Machine.execEmitSof s
  | .emitData e d => Sys2Proof.Machine.execEmitData e d s
  | .emitEof => Sys2Proof.Machine.execEmitEof s
  | .reset => Sys2Proof.Machine.execReset s

end Sys2Proof.Machine
end

