-- ==== Sys2Proof/WellFormed.lean ====
section
/-! DEFINITION. Which operations the encodings of an instance admit: the operand ranges of R58, R60 and
`spec/opcode_table.json`. An operand whose bits are in range but whose value the rules call unreachable (a ROM address of
360 or more, a NaN) is well formed: the operation faults on it (R61, R123). -/

namespace Sys2Proof

/-- The operand of the row lies in the range the row gives, at the pointer width of the instance `p`. -/
def wellFormed (p : Params) : Instr → Bool
  | .romRead _ => true
  | .cos _ => true
  | .sin _ => true
  | .bitrev _ => true
  | .stageTw s => 1#4 ≤ s && s ≤ 8#4
  | .cmul _ _ => true
  | .butterfly s q j => 1#4 ≤ s && s ≤ 8#4 && j.toNat < 2 ^ (s.toNat - 1) && q.toNat % 2 ^ s.toNat == j.toNat
  | .fft _ => true
  | .ifftTw _ => true
  | .ifftSum _ => true
  | .ifft _ => true
  | .kbounds r _ _ => r != 0#32
  | .mask _ => true
  | .unpack _ => true
  | .widen _ => true
  | .narrow _ => true
  | .pack _ => true
  | .filter _ => true
  | .grayEnc b => b < 2 ^ p.fptrW
  | .grayDec g => g < 2 ^ p.fptrW
  | .syncH g => g < 2 ^ p.fptrW
  | .syncT g => g < 2 ^ p.fptrW
  | .accept _ _ _ => true
  | .commitOk _ _ => true
  | .commitBp _ _ => true
  | .dequeue => true
  | .process _ => true
  | .emitSof => true
  | .emitData e _ => 1#10 ≤ e && e ≤ 512#10
  | .emitEof => true
  | .reset => true

end Sys2Proof
end

