-- ==== Sys2Proof/Decode.lean ====
section
/-! DEFINITION. The decoder: from a source (R60's format) and a word to the operation, total, refusing by answering
`none`; then the encoder, written from the same strings of `spec/opcode_table.json`; then the reading of a bare table
word, which names no source. -/

namespace Sys2Proof

/-- `w[lo+len-1 : lo]` of R9. -/
def bits (w lo len : Nat) : BitVec len := BitVec.ofNat len (w >>> lo)

/-- The operation if it is well formed for the instance. -/
def ifWellFormed (p : Params) (i : Instr) : Option Instr := if wellFormed p i then some i else none

/-- PROD_IN, 12 bits: prod_state 11:10, can_commit 9, in_valid 8, in_data 7:0 (R60).
The words of state 0b11 and those without an offered byte in IDLE or ACCUM are no row's. -/
def decodeProdIn (w : Nat) : Option Instr :=
  if 2 ^ 12 ≤ w then none
  else if bits w 11 1 = 0#1 then
    if bits w 8 1 = 1#1 then some (.accept (bits w 10 1) (bits w 9 1) (bits w 0 8)) else none
  else if bits w 10 1 = 0#1 then
    if bits w 9 1 = 1#1 then some (.commitOk (bits w 8 1) (bits w 0 8)) else some (.commitBp (bits w 8 1) (bits w 0 8))
  else none

/-- CONS_CTL, 3 bits: cons_state 2:1, frames_ready ≥ 1 0 (R60). -/
def decodeConsCtl (w : Nat) : Option Instr :=
  if w = 1 then some .dequeue
  else if w = 2 ∨ w = 3 then some (.process (bits w 0 1))
  else none

/-- CONS_OUT, 21 bits: cons_state 20:19, emit_idx 18:9, out_ready 8, out_data 7:0 (R60). -/
def decodeConsOut (p : Params) (w : Nat) : Option Instr :=
  if 2 ^ 21 ≤ w ∨ bits w 19 2 ≠ 2#2 ∨ bits w 8 1 ≠ 1#1 then none
  else if bits w 9 10 = 0#10 then (if bits w 0 8 = sofByte then some .emitSof else none)
  else if bits w 9 10 = 513#10 then (if bits w 0 8 = eofByte then some .emitEof else none)
  else ifWellFormed p (.emitData (bits w 9 10) (bits w 0 8))

/-- PORT_RST, 1 bit: rst_n (R60). -/
def decodePortRst (w : Nat) : Option Instr := if w = 0 then some .reset else none

/-- The row's operand if the word has no bit above the row's `width`. -/
def within (p : Params) (width w : Nat) (i : Instr) : Option Instr := if 2 ^ width ≤ w then none else ifWellFormed p i

/-- The FN_ formats and ELAB (R60): the operand layout of each function row. -/
def decodeFn (p : Params) (w : Nat) : Fn → Option Instr
  | .romRead => within p 9 w (.romRead (bits w 0 9))
  | .cos => within p 32 w (.cos (bits w 0 32))
  | .sin => within p 32 w (.sin (bits w 0 32))
  | .bitrev => within p 8 w (.bitrev (bits w 0 8))
  | .stageTw => within p 4 w (.stageTw (bits w 0 4))
  | .cmul => within p 128 w (.cmul (Cplx.unpack (bits w 64 64)) (Cplx.unpack (bits w 0 64)))
  | .butterfly => within p 19 w (.butterfly (bits w 15 4) (bits w 7 8) (bits w 0 7))
  | .fft => within p 8 w (.fft (bits w 0 8))
  | .ifftTw => within p 8 w (.ifftTw (bits w 0 8))
  | .ifftSum => within p 8 w (.ifftSum (bits w 0 8))
  | .ifft => within p 8 w (.ifft (bits w 0 8))
  | .kbounds => within p 96 w (.kbounds (bits w 64 32) (bits w 32 32) (bits w 0 32))
  | .mask => within p 8 w (.mask (bits w 0 8))
  | .unpack => within p 8 w (.unpack (bits w 0 8))
  | .widen => within p 16 w (.widen (bits w 0 16))
  | .narrow => within p 32 w (.narrow (bits w 0 32))
  | .pack => within p 8 w (.pack (bits w 0 8))
  | .filter => within p 8 w (.filter (bits w 0 8))
  | .grayEnc => within p p.fptrW w (.grayEnc w)
  | .grayDec => within p p.fptrW w (.grayDec w)

/-- The operation a word of a source stands for (R58 to R60); `none` where no row has the word. -/
def decode (p : Params) (src : Source) (w : Nat) : Option Instr :=
  match src with
  | .prodIn => decodeProdIn w
  | .consCtl => decodeConsCtl w
  | .consOut => decodeConsOut p w
  | .syncH => within p p.fptrW w (.syncH w)
  | .syncT => within p p.fptrW w (.syncT w)
  | .portRst => decodePortRst w
  | .fn f => decodeFn p w f

/-- The source and the word of an operation, from the strings of `spec/opcode_table.json`. -/
def encode : Instr → Source × Nat
  | .romRead a => (.fn .romRead, a.toNat)
  | .cos t => (.fn .cos, t.toNat)
  | .sin t => (.fn .sin, t.toNat)
  | .bitrev i => (.fn .bitrev, i.toNat)
  | .stageTw s => (.fn .stageTw, s.toNat)
  | .cmul a b => (.fn .cmul, a.pack.toNat * 2 ^ 64 + b.pack.toNat)
  | .butterfly s q j => (.fn .butterfly, s.toNat * 2 ^ 15 + q.toNat * 2 ^ 7 + j.toNat)
  | .fft k => (.fn .fft, k.toNat)
  | .ifftTw q => (.fn .ifftTw, q.toNat)
  | .ifftSum n => (.fn .ifftSum, n.toNat)
  | .ifft n => (.fn .ifft, n.toNat)
  | .kbounds r l h => (.fn .kbounds, r.toNat * 2 ^ 64 + l.toNat * 2 ^ 32 + h.toNat)
  | .mask i => (.fn .mask, i.toNat)
  | .unpack i => (.fn .unpack, i.toNat)
  | .widen v => (.fn .widen, v.toNat)
  | .narrow y => (.fn .narrow, y.toNat)
  | .pack i => (.fn .pack, i.toNat)
  | .filter n => (.fn .filter, n.toNat)
  | .grayEnc b => (.fn .grayEnc, b)
  | .grayDec g => (.fn .grayDec, g)
  | .syncH g => (.syncH, g)
  | .syncT g => (.syncT, g)
  -- 0sc1dddddddd
  | .accept s c d => (.prodIn, s.toNat * 2 ^ 10 + c.toNat * 2 ^ 9 + 2 ^ 8 + d.toNat)
  -- 101vxxxxxxxx
  | .commitOk v x => (.prodIn, 2 ^ 11 + 2 ^ 9 + v.toNat * 2 ^ 8 + x.toNat)
  -- 100vxxxxxxxx
  | .commitBp v x => (.prodIn, 2 ^ 11 + v.toNat * 2 ^ 8 + x.toNat)
  -- 001
  | .dequeue => (.consCtl, 1)
  -- 01f
  | .process f => (.consCtl, 2 + f.toNat)
  -- 10 0000000000 1 10101010
  | .emitSof => (.consOut, 2 ^ 20 + 2 ^ 8 + 0xAA)
  -- 10 eeeeeeeeee 1 dddddddd
  | .emitData e d => (.consOut, 2 ^ 20 + e.toNat * 2 ^ 9 + 2 ^ 8 + d.toNat)
  -- 10 1000000001 1 10111011
  | .emitEof => (.consOut, 2 ^ 20 + 513 * 2 ^ 9 + 2 ^ 8 + 0xBB)
  -- 0
  | .reset => (.portRst, 0)

/-- The width of a source's words in bits (R60). -/
def Source.width (p : Params) : Source → Nat
  | .prodIn => 12
  | .consCtl => 3
  | .consOut => 21
  | .syncH => p.fptrW
  | .syncT => p.fptrW
  | .portRst => 1
  | .fn .romRead => 9
  | .fn .cos => 32
  | .fn .sin => 32
  | .fn .stageTw => 4
  | .fn .cmul => 128
  | .fn .butterfly => 19
  | .fn .kbounds => 96
  | .fn .widen => 16
  | .fn .narrow => 32
  | .fn .grayEnc => p.fptrW
  | .fn .grayDec => p.fptrW
  | .fn _ => 8

/-- The sources a bare table word of so many bytes may have, in the order they are tried: first the rows whose strings
have fixed bits, then the narrower layouts, then the table's order (DESIGN CHOICE, log entry 4: R60 selects no function by
bits, so a bare word does not say which row it is). -/
def bareSources : Nat → List Source
  | 1 => [.portRst, .consCtl, .fn .grayEnc, .fn .grayDec, .syncH, .syncT, .fn .stageTw, .fn .bitrev, .fn .fft, .fn .ifftTw,
      .fn .ifftSum, .fn .ifft, .fn .mask, .fn .unpack, .fn .pack, .fn .filter]
  | 2 => [.prodIn, .fn .romRead, .fn .widen]
  | 3 => [.consOut, .fn .butterfly]
  | 4 => [.fn .cos, .fn .sin, .fn .narrow]
  | 12 => [.fn .kbounds]
  | 16 => [.fn .cmul]
  | _ => []

/-- The source a bare word of `nbits` bits is read with: the first that has a row for it. -/
def bareSource (nbits w : Nat) : Option Source :=
  (bareSources ((nbits + 7) / 8)).find? fun src => (decode Params.default src w).isSome

/-- The operation the decoder reads from a bare table word, at the default instance (the table's 3-bit pointers, R60). -/
def decodeTableWord (nbits w : Nat) : Option Instr :=
  (bareSource nbits w).bind fun src => decode Params.default src w

end Sys2Proof
end

