-- ==== Sys2Proof/Machine/Sequencer.lean ====
section
/-! DEFINITION. The pipeline sequencer of the cycle level (R20, R78, R84, R90, R120): one operation of the schedule at a
time, in the order R95 fixes, over the working storage. How many operations an edge performs is not specified (I8, I9), so
the edge takes a free number of them (log entry 14). -/

namespace Sys2Proof.Machine

/-- Moves the sequencer to a loop's start. -/
def State.atPhase (s : State) (ph : PipePhase) (stage : Nat) : State :=
  { s with pipe := { s.pipe with phase := ph, stageCtr := stage, blockCtr := 0, indexCtr := 0 } }

/-- Moves a loop of 256 turns on, or the sequencer to the next loop after the last turn. -/
def State.nextIndex (s : State) (next : PipePhase) (stage : Nat) : State :=
  if s.pipe.indexCtr < 255 then { s with pipe := { s.pipe with indexCtr := s.pipe.indexCtr + 1 } }
  else s.atPhase next stage

/-- The counters after one butterfly (R75): the j loop, then the block loop, then the stage loop, then the mask. -/
def State.nextButterfly (s : State) : State :=
  let h := 2 ^ (s.pipe.stageCtr - 1)
  if s.pipe.indexCtr + 1 < h then { s with pipe := { s.pipe with indexCtr := s.pipe.indexCtr + 1 } }
  else if s.pipe.blockCtr + 2 * h < 256 then
    { s with pipe := { s.pipe with indexCtr := 0, blockCtr := s.pipe.blockCtr + 2 * h } }
  else if s.pipe.stageCtr < 8 then s.atPhase .stages (s.pipe.stageCtr + 1)
  else s.atPhase .mask 0

/-- One operation of the pipeline's schedule. -/
def pipeOp (s : State) : Except Fault State :=
  let i := s.pipe.indexCtr
  match s.pipe.phase with
  | .widen => do
    let z ← widenComplex (← s.finSample i)
    return { s with pipe := { s.pipe with x := writeCell s.pipe.x i z } }.nextIndex .bitrev 0
  | .bitrev => do
    return { s with pipe := { s.pipe with
      toWorkspace := s.pipe.toWorkspace.withSpectrum (bitReverse (← s.pipe.spectrum)) } }.atPhase .stages 1
  | .stages => do
    let p := s.pipe.blockCtr + i
    let h := 2 ^ (s.pipe.stageCtr - 1)
    let w ← twiddlePower (← stageTwiddle s.pipe.stageCtr) i
    let r ← butterflyPair w (← readElem s.pipe.x p) (← readElem s.pipe.x (p + h))
    return { s with pipe := { s.pipe with
      x := writeCell (writeCell s.pipe.x p r.1) (p + h) r.2 } }.nextButterfly
  | .mask =>
    if masked s.cfg.kMin s.cfg.kMax i then
      .ok ({ s with pipe := { s.pipe with x := writeCell s.pipe.x i czero } }.nextIndex .phases 0)
    else .ok (s.nextIndex .phases 0)
  | .phases => do
    let c ← phasePair i
    return { s with pipe := { s.pipe with
      cosp := writeCell s.pipe.cosp i c.re, sinp := writeCell s.pipe.sinp i c.im } }.nextIndex .sums 0
  | .sums => do
    let cs ← readRun s.pipe.cosp 0 256
    let sn ← readRun s.pipe.sinp 0 256
    let v ← ifftSum (List.zipWith Cplx.mk cs sn) (← s.pipe.spectrum) i
    return { s with pipe := { s.pipe with y := writeCell s.pipe.y i v } }.nextIndex .narrow 0
  | .narrow => do
    let v ← narrowWord (← readElem s.pipe.y i)
    let t := { s with cons := { s.cons with fout := writeCell s.cons.fout i v } }
    if i < 255 then return t.nextIndex .widen 0 else return (t.nextIndex .widen 0).processPublished

/-- At most n operations of the schedule, stopping when CONS leaves PROCESSING. -/
def pipeOps : Nat → State → Except Fault State
  | 0, s => .ok s
  | n + 1, s =>
    if s.cons.state = codeProcessing then do
      let s' ← pipeOp s
      pipeOps n s'
    else .ok s

end Sys2Proof.Machine
end

