-- ==== Sys2Proof/Machine/Cycle.lean ====
section
/-! DEFINITION. The cycle level (R13): the rising edges of `clk_in` and `clk_proc` (R49, R99, R113, R120) and the reset
synchronisers (R134). At one edge every register is computed from the values before it. -/

namespace Sys2Proof.Machine

/-- COMMIT's sub-phase CHECK (R113): the copy starts, or the backpressure effect of R110 and the bounded wait. Without
backpressure a frame meets it at one edge (R114). -/
def State.checkEdge (s : State) : State :=
  if s.canCommit then { s with prod := { s.prod with cphase := .copy, copyIdx := 0#9 } }
  else if s.cfg.retryWait = 0 then
    { s.backpressured with prod := { s.backpressured.prod with cphase := .check } }
  else
    { s.backpressured with prod := { s.backpressured.prod with
      cphase := .wait, waitCnt := BitVec.ofNat 16 (s.cfg.retryWait - 1) } }

/-- COMMIT's sub-phase WAIT (R113). -/
def State.waitEdge (s : State) : State :=
  if s.prod.waitCnt = 0#16 then { s with prod := { s.prod with cphase := .check } }
  else { s with prod := { s.prod with waitCnt := s.prod.waitCnt - 1#16 } }

/-- COMMIT's sub-phase COPY (R113): one byte an edge, and the publication with the last, so 512 edges a frame (R114). -/
def State.copyEdge (s : State) : Except Fault State := do
  let b ← readElem s.prod.stage s.prod.copyIdx.toNat
  let t := { s with ram := ramWrite s.ram (ramAddr s.cfg s.prod.hf s.prod.copyIdx.toNat) b }
  if s.prod.copyIdx = 511#9 then return t.commitPublished
  else return { t with prod := { t.prod with copyIdx := t.prod.copyIdx + 1#9 } }

/-- PROD at a rising `clk_in` edge out of reset (R113). With `in_valid` held at 1 and no backpressure a frame takes the 1025 edges of
R114: 512 that accept, one `checkEdge` and 512 `copyEdge`, `in_ready` being 0 before the last 513. -/
def State.prodEdge (s : State) (inValid : Bool) (inData : Byte) : Except Fault State :=
  if s.prod.state = codeUnused then .error .badStateCode
  else if s.prod.state = codeCommit then
    match s.prod.cphase with
    | .check => .ok s.checkEdge
    | .wait => .ok s.waitEdge
    | .copy => s.copyEdge
  else if inValid && s.inReady then
    if 512#10 ≤ s.prod.stageCnt then .error .stageOverflow else .ok (s.accepted inData)
  else .ok s

/-- The synchroniser registers of the `clk_in` domain after an edge (R99), from the state `s` before it. -/
def State.prodSynced (t s : State) : State :=
  { t with prod := { t.prod with
      hfGray := grayOf s.prod.hf
      tfSync := shiftIn s.cons.tfGray s.prod.tfSync } }

/-- A rising edge of `clk_in` (R49, R99, R113, R134). In reset the registers are held; the domain leaves reset at the edge
that brings the last flop of its reset synchroniser to 1. -/
def clkInEdge (inValid : Bool) (inData : Byte) (s : State) : Result :=
  if !s.rst.rstN then .next { s with rst := { s.rst with lowIn := s.rst.lowIn + 1 } }
  else if !s.prodOutOfReset then .next { s with rst := { s.rst with inSync := shiftIn true s.rst.inSync } }
  else finish do return (← s.prodEdge inValid inData).prodSynced s

/-- Loads the free number of edges that CONS lets pass before it acts again (I8, I10; log entry 14). -/
def State.stalled (s : State) : State :=
  { s with pipe := { s.pipe with stall := Config.procStall s.freeIdx } }.drawn

/-- One byte of the dequeue copy (R120), and the publication with the last. -/
def State.readEdge (s : State) : Except Fault State := do
  let b ← ramRead s.ram (ramAddr s.cfg s.cons.tf s.cons.rdIdx.toNat)
  let t := { s with cons := { s.cons with fin := writeCell s.cons.fin s.cons.rdIdx.toNat b } }
  if s.cons.rdIdx = 511#9 then return t.dequeuePublished
  else return { t with cons := { t.cons with rdIdx := t.cons.rdIdx + 1#9 } }

/-- An edge at which the stall counter runs down. -/
def State.stallEdge (s : State) : State := { s with pipe := { s.pipe with stall := s.pipe.stall - 1 } }

/-- EMITTING at an edge (R120): a transfer when `out_valid` and `out_ready`, else nothing. The byte transferred is the value
of `out_data` (R49 item 4). -/
def State.emitEdge (s : State) (outReady : Bool) : Except Fault State :=
  if s.cons.outValid && outReady then
    if s.cons.emitIdx = 513#10 then
      .ok { s with
        cons := { s.cons with outValid := false, emitIdx := 0#10, state := codeWaiting }
        emitted := s.emitted ++ [s.cons.outData] }
    else do
      let b ← s.outByte (s.cons.emitIdx.toNat + 1)
      return { s with
        cons := { s.cons with emitIdx := s.cons.emitIdx + 1#10, outData := b }
        emitted := s.emitted ++ [s.cons.outData] }
  else .ok s

/-- CONS at a rising `clk_proc` edge out of reset (R120). -/
def State.consEdge (s : State) (outReady : Bool) : Except Fault State :=
  if s.cons.state = codeUnused then .error .badStateCode
  else if s.cons.state = codeWaiting then
    if !s.cons.dqActive then
      if 1 ≤ s.framesReady then .ok { s with cons := { s.cons with dqActive := true, rdIdx := 0#9 } }.stalled
      else .ok s
    else if 0 < s.pipe.stall then .ok s.stallEdge
    else do return (← s.readEdge).stalled
  else if s.cons.state = codeProcessing then
    if 0 < s.pipe.stall then .ok s.stallEdge
    else do return (← pipeOps (Config.pipeRate s.freeIdx + 1) s.drawn).stalled
  else s.emitEdge outReady

/-- The synchroniser registers of the `clk_proc` domain after an edge (R99), from the state `s` before it. -/
def State.consSynced (t s : State) : State :=
  { t with cons := { t.cons with
      tfGray := grayOf s.cons.tf
      hfSync := shiftIn s.prod.hfGray s.cons.hfSync } }

/-- A rising edge of `clk_proc` (R49, R99, R120, R134). -/
def clkProcEdge (outReady : Bool) (s : State) : Result :=
  if !s.rst.rstN then .next { s with rst := { s.rst with lowProc := s.rst.lowProc + 1 } }
  else if !s.consOutOfReset then .next { s with rst := { s.rst with procSync := shiftIn true s.rst.procSync } }
  else finish do return (← s.consEdge outReady).consSynced s

/-- The first flop of a chain after an edge at which the sampled register changed and the sample resolved to the new code (R99). -/
def resolvedNew (code : Nat) (chain : List Nat) : List Nat :=
  match chain with
  | [] => []
  | _ :: t => code :: t

/-- Two edges that coincide: `a` is the state after the `clk_in` edge alone and `b` after the `clk_proc` edge alone, both from the
same state, and each domain takes its own registers from its own edge. The first flop of each chain has the old code of the
register it samples, or the new one if it resolves so; only a domain out of reset samples. -/
def State.joined (s a b : State) (newHead newTail : Bool) : State :=
  { a with
    prod := { a.prod with
      tfSync := if newTail && s.prodOutOfReset then resolvedNew b.cons.tfGray a.prod.tfSync else a.prod.tfSync }
    cons := { b.cons with
      hfSync := if newHead && s.consOutOfReset then resolvedNew a.prod.hfGray b.cons.hfSync else b.cons.hfSync }
    pipe := b.pipe
    rst := { a.rst with procSync := b.rst.procSync, lowProc := b.rst.lowProc }
    emitted := b.emitted
    freeIdx := b.freeIdx }

/-- Rising edges of `clk_in` and `clk_proc` that coincide (R15, R99, R126 item 3): every register from the values before them. -/
def clkBothEdge (inValid : Bool) (inData : Byte) (outReady newHead newTail : Bool) (s : State) : Result :=
  match clkInEdge inValid inData s with
  | .next a =>
    match clkProcEdge outReady s with
    | .next b => .next (s.joined a b newHead newTail)
    | stop => stop
  | stop => stop

end Sys2Proof.Machine
end

