-- ==== Sys2Proof/Machine/Fetch.lean ====
section
/-! DEFINITION. What an event brings: the decode word an agent forms from its state and its port (R59, R60), the operand
word of a call, or an edge of the cycle level; and the state in which the next turn forms a given word. -/

namespace Sys2Proof.Machine

/-- What the next event asks for. -/
inductive Fetched where
  /-- No operation applies to the agent now (R59), so its turn changes nothing. -/
  | idle
  /-- The decode word of an agent, or the operand of a function. -/
  | word (src : Source) (w : Nat)
  /-- A state of the agent that no row has (R123). -/
  | stop (f : Fault)
  deriving DecidableEq, Repr

/-- 1 or 0. -/
def bit (b : Bool) : Nat := if b then 1 else 0

/-- PROD's decode word, PROD_IN (R60): prod_state, can_commit, in_valid, in_data. -/
def State.prodWord (s : State) (inValid : Bool) (inData : Byte) : Nat :=
  s.prod.state.toNat * 2 ^ 10 + bit s.canCommit * 2 ^ 9 + bit inValid * 2 ^ 8 + inData.toNat

/-- CONS's decode word in WAITING and PROCESSING, CONS_CTL (R60): cons_state, frames_ready ≥ 1. -/
def State.consCtlWord (s : State) : Nat := s.cons.state.toNat * 2 + bit (decide (1 ≤ s.framesReady))

/-- CONS's decode word in EMITTING with SINK ready, CONS_OUT (R60): cons_state, emit_idx, out_ready, out_data. -/
def State.consOutWord (s : State) (b : Byte) : Nat :=
  s.cons.state.toNat * 2 ^ 19 + s.cons.emitIdx.toNat * 2 ^ 9 + 2 ^ 8 + b.toNat

/-- PROD's turn (R59): in IDLE and ACCUM no step until SRC offers a byte, in COMMIT always one. -/
def State.fetchProd (s : State) (inValid : Bool) (inData : Byte) : Fetched :=
  if s.prod.state = codeUnused then .stop .badStateCode
  else if !s.prodOutOfReset then .idle
  else if s.prod.state != codeCommit && !inValid then .idle
  else .word .prodIn (s.prodWord inValid inData)

/-- CONS's turn (R59): in WAITING no step while frames_ready = 0, in EMITTING none until SINK takes the byte. -/
def State.fetchCons (s : State) (outReady : Bool) : Fetched :=
  if s.cons.state = codeUnused then .stop .badStateCode
  else if !s.consOutOfReset then .idle
  else if s.cons.state = codeEmitting then
    if !outReady then .idle
    else match s.outByte s.cons.emitIdx.toNat with
      | .error f => .stop f
      | .ok b => .word .consOut (s.consOutWord b)
  else if s.cons.state = codeWaiting && s.framesReady == 0 then .idle
  else .word .consCtl s.consCtlWord

/-- What a transaction-level event asks for; the edges of the cycle level ask for no operation. R60 calls a function only inside
the step that uses it; that a function can also be called by name, at any time, is the model's choice (DESIGN CHOICE, log
entries 6 and 30), and such a call touches no state of the CORE. -/
def State.fetch (s : State) : Event → Fetched
  | .prod v d => s.fetchProd v d
  | .cons r => s.fetchCons r
  | .syncH => if s.consOutOfReset then .word .syncH (grayOf s.prod.hf) else .idle
  | .syncT => if s.prodOutOfReset then .word .syncT (grayOf s.cons.tf) else .idle
  | .reset => .word .portRst 0
  | .call f w => .word (.fn f) w
  | .clkIn _ _ => .idle
  | .clkProc _ => .idle
  | .clkBoth _ _ _ _ _ => .idle
  | .rstN _ => .idle

/-- Whether an event belongs to the cycle level (R13). -/
def Event.isCycle : Event → Bool
  | .clkIn _ _ => true
  | .clkProc _ => true
  | .clkBoth _ _ _ _ _ => true
  | .rstN _ => true
  | _ => false

/-- A cycle-level event (R49, R99, R113, R120, R134); any other changes nothing here. -/
def cycleStep (ev : Event) (s : State) : Result :=
  match ev with
  | .clkIn v d => clkInEdge v d s
  | .clkProc r => clkProcEdge r s
  | .clkBoth v d r newHead newTail => clkBothEdge v d r newHead newTail s
  | .rstN level => resetLine level s
  | _ => .next s

/-- A view chain that makes `can_commit` come out as wanted: `tv` equal to `hf`, or one ahead of it. -/
def State.withCanCommit (s : State) (want : Bool) : State :=
  if s.canCommit = want then s
  else
    let g := grayOf (if want then s.prod.hf else ptrNext s.slots s.prod.hf)
    { s with prod := { s.prod with tfSync := s.prod.tfSync.map fun _ => g } }

/-- A view chain that makes `frames_ready ≥ 1` come out as wanted: `hv` one ahead of `tf`, or equal to it. -/
def State.withFramesReady (s : State) (want : Bool) : State :=
  if decide (1 ≤ s.framesReady) = want then s
  else
    let g := grayOf (if want then ptrNext s.slots s.cons.tf else s.cons.tf)
    { s with cons := { s.cons with hfSync := s.cons.hfSync.map fun _ => g } }

/-- FOUT as it must be for `byte(e)` to be `d` (R118): only a payload byte that FOUT does not give already is written, with
its sample's other byte 0. -/
def State.withOutByte (s : State) (e : Nat) (d : Byte) : State :=
  if 1 ≤ e ∧ e ≤ 512 then
    match s.outByte e with
    | .ok b =>
      if b = d then s
      else { s with cons := { s.cons with
        fout := writeCell s.cons.fout ((e - 1) / 2) (if e % 2 = 1 then sampleOf d 0#8 else sampleOf 0#8 d) } }
    | .error _ =>
      { s with cons := { s.cons with
        fout := writeCell s.cons.fout ((e - 1) / 2) (if e % 2 = 1 then sampleOf d 0#8 else sampleOf 0#8 d) } }
  else s

/-- The state whose next turn forms the word `w` of the source `src`: the agent's state bits and its port as the word has
them, and the turn at the head of the inbox (log entry 3). -/
def State.presenting (s : State) (src : Source) (w : Nat) : State :=
  match src with
  | .prodIn =>
    { s.withCanCommit (bits w 9 1 == 1#1) with
      prod := { (s.withCanCommit (bits w 9 1 == 1#1)).prod with state := bits w 10 2 }
      inbox := .prod (bits w 8 1 == 1#1) (bits w 0 8) :: s.inbox }
  | .consCtl =>
    { s.withFramesReady (bits w 0 1 == 1#1) with
      cons := { (s.withFramesReady (bits w 0 1 == 1#1)).cons with state := bits w 1 2 }
      inbox := .cons false :: s.inbox }
  | .consOut =>
    { s.withOutByte (bits w 9 10).toNat (bits w 0 8) with
      cons := { (s.withOutByte (bits w 9 10).toNat (bits w 0 8)).cons with state := bits w 19 2, emitIdx := bits w 9 10 }
      inbox := .cons (bits w 8 1 == 1#1) :: s.inbox }
  | .syncH =>
    { s with prod := { s.prod with hf := grayInv s.cfg.fptrW w }, inbox := .syncH :: s.inbox }
  | .syncT =>
    { s with cons := { s.cons with tf := grayInv s.cfg.fptrW w }, inbox := .syncT :: s.inbox }
  | .portRst => { s with inbox := .reset :: s.inbox }
  | .fn f => { s with inbox := .call f w :: s.inbox }

end Sys2Proof.Machine
end

