-- ==== Sys2Proof/Machine/Step.lean ====
section
/-! DEFINITION. One step: the next event is taken from the inbox; an edge acts on the cycle level; a turn forms its agent's
decode word, which is decoded and executed (R59). With no event to come both clocks stand still and all state is kept (R133). -/

namespace Sys2Proof.Machine

/-- The operation of a fetched word, decoded and executed. -/
def runFetched (f : Fetched) (s : State) : Host.Outcome State Fault Refusal :=
  match f with
  | .idle => .next s
  | .stop r => .fault r
  | .word src w =>
    match decode s.cfg src w with
    | none => .refused .badEncoding
    | some i => exec i s

/-- One event, in the state from whose inbox it was taken. -/
def runEvent (ev : Event) (s : State) : Host.Outcome State Fault Refusal :=
  if ev.isCycle then cycleStep ev s else runFetched (s.fetch ev) s

/-- The step function. An instance that elaboration rejects does not exist (R7). -/
def step (s : State) : Host.Outcome State Fault Refusal :=
  if !s.cfg.legal then .refused .elabRejected
  else match s.inbox with
    | [] => .next s
    | ev :: rest => runEvent ev { s with inbox := rest }

/-- The state whose next step runs the bare table word `w` of `nbits` bits: the source the decoder reads it with is
presented; a word no row has is presented as a call that no row accepts, so that the next step refuses it. -/
def State.withFetchWord (s : State) (nbits w : Nat) : State :=
  match bareSource nbits w with
  | some src => s.presenting src w
  | none => { s with inbox := .call .stageTw 0 :: s.inbox }

end Sys2Proof.Machine
end

