-- ==== Sys2Proof/Safety.lean ====
section
/-! DEFINITION. What counts as a safe state and a safe run, in the terms the statements use: bounds on binary32 values,
the control invariant (R18, R61), the canonical form of every store (R24, R30), the ring invariant (R103) at both levels, and
the stream invariant behind the end-to-end equation (R96, R104). -/

namespace Sys2Proof.Machine

/-- A finite value of magnitude at most 2^n. -/
def atMost (n : Nat) (a : F32) : Prop := finite a = true ∧ funits a ≤ 2 ^ (149 + n)

/-- Both parts of magnitude at most 2^n. -/
def bothAtMost (n : Nat) (z : Cplx) : Prop := atMost n z.re ∧ atMost n z.im

/-- Every part of every bin of magnitude at most 2^n. -/
def binsAtMost (n : Nat) (x : List Cplx) : Prop := ∀ z ∈ x, bothAtMost n z

/-- The control registers hold what R18, R19, R20 and R61 allow: no unused state code, `stage_cnt` fits the producer's
state, `emit_idx` fits the consumer's, and a byte is offered exactly in EMITTING. -/
structure ControlInv (s : State) : Prop where
  prodCode : s.prod.state ≠ codeUnused
  consCode : s.cons.state ≠ codeUnused
  idleCount : s.prod.state = codeIdle → s.prod.stageCnt = 0#10
  accumCount : s.prod.state = codeAccum → 0 < s.prod.stageCnt.toNat ∧ s.prod.stageCnt.toNat < 512
  commitCount : s.prod.state = codeCommit → s.prod.stageCnt = 512#10
  emitRange : s.cons.emitIdx.toNat ≤ 513
  emitRest : s.cons.state ≠ codeEmitting → s.cons.emitIdx = 0#10
  offered : s.cons.outValid = true ↔ s.cons.state = codeEmitting

/-- Every store has the canonical form, and the ring RAM lies in 0 … CAP−1 (R24, R30). -/
structure StoresCanonical (s : State) : Prop where
  ram : Memory.wf s.cfg s.ram = true
  ramKept : Memory.wf s.cfg s.ramKept = true
  stage : rising s.prod.stage = true
  fin : rising s.cons.fin = true
  fout : rising s.cons.fout = true
  x : rising s.pipe.x = true
  cosp : rising s.pipe.cosp = true
  sinp : rising s.pipe.sinp = true
  y : rising s.pipe.y = true
  workX : rising s.work.x = true
  workCosp : rising s.work.cosp = true
  workSinp : rising s.work.sinp = true
  workY : rising s.work.y = true

/-- R103 points 1 to 3 with the registers of the crossing (R99): `H` commits and `T` dequeues since reset, `hs` the head
counts that `hf_gray` and the flops of `hf_sync` stand for, newest first, `ts` the tail counts of `tf_gray` and `tf_sync`.
The last of `hs` is HV and the last of `ts` is TV. A commit copy in progress has room, and a dequeue copy in progress a frame. -/
structure RingCounts (s : State) (H T : Nat) (hs ts : List Nat) : Prop where
  head : s.prod.hf = H % s.slots
  tail : s.cons.tf = T % s.slots
  headCodes : s.prod.hfGray :: s.cons.hfSync = hs.map fun n => grayOf (n % s.slots)
  tailCodes : s.cons.tfGray :: s.prod.tfSync = ts.map fun n => grayOf (n % s.slots)
  headFlops : s.cons.hfSync.length = s.cfg.syncStages
  tailFlops : s.prod.tfSync.length = s.cfg.syncStages
  headOrder : (H :: hs).Pairwise fun newer older => older ≤ newer
  tailOrder : (T :: ts).Pairwise fun newer older => older ≤ newer
  known : T ≤ hs.getLastD 0
  room : H + 1 ≤ ts.getLastD 0 + s.slots
  copying : s.prod.state = codeCommit → s.prod.cphase = .copy → H + 2 ≤ ts.getLastD 0 + s.slots
  reading : s.cons.dqActive = true → T + 1 ≤ hs.getLastD 0

/-- The ring invariant: some counts stand behind the pointers and the codes that cross. -/
def RingInv (s : State) : Prop := ∃ H T hs ts, RingCounts s H T hs ts

/-- Frame j of R96: the bytes 512j … 512j + 511 of the accepted stream. -/
def frameAt (log : List Byte) (j : Nat) : List Byte := (log.drop (512 * j)).take 512

/-- OUT of R96: the output frame of an input frame. -/
def isOutput (p : Params) (frame out : List Byte) : Prop :=
  ∃ r, filterFrame p.kMin p.kMax (unpackBytes frame) = .ok r ∧ out = sofByte :: packSamples r.out ++ [eofByte]

/-- PROCESSING is under way: some operations of the schedule, counted from its start on this FIN, give the sequencer's counters,
the working storage and FOUT. -/
def Running (s : State) : Prop :=
  ∃ (n : Nat) (a b : State),
    a.cfg = s.cfg ∧ a.cons.fin = s.cons.fin ∧ a.cons.state = codeProcessing ∧
    a.pipe.phase = .widen ∧ a.pipe.stageCtr = 0 ∧ a.pipe.blockCtr = 0 ∧ a.pipe.indexCtr = 0 ∧
    pipeOps n a = .ok b ∧ b.cons.state = codeProcessing ∧ b.cons.fout = s.cons.fout ∧
    s.pipe = { b.pipe with stall := s.pipe.stall }

/-- R103 and R96 at both levels: after `H` commits and `T` dequeues since reset, with the crossing as `RingCounts` says, STAGE
holds the unfinished frame, every committed and not yet dequeued frame stands in its slot, a copy in progress has moved what its
index says, `outs` are the output frames of the frames already filtered, what has been emitted is exactly what they give, and
`out_data` is the byte at `emit_idx`. -/
structure StreamCounts (s : State) (H T : Nat) (hs ts : List Nat) (outs : List (List Byte)) : Prop where
  control : ControlInv s
  crossing : RingCounts s H T hs ts
  accepted : s.inLog.length = 512 * H + s.prod.stageCnt.toNat
  staged : ∀ i, i < s.prod.stageCnt.toNat → readCell s.prod.stage i = s.inLog[512 * H + i]?
  copied : s.prod.state = codeCommit → s.prod.cphase = .copy →
    ∀ i, i < s.prod.copyIdx.toNat → readCell s.ram (ramAddr s.cfg (H % s.slots) i) = s.inLog[512 * H + i]?
  ring : ∀ c, T ≤ c → c < H → ∀ i, i < 512 → readCell s.ram (ramAddr s.cfg (c % s.slots) i) = s.inLog[512 * c + i]?
  filtered : ∀ j out, outs[j]? = some out → isOutput s.cfg (frameAt s.inLog j) out
  dequeuing : s.cons.dqActive = true → s.cons.state = codeWaiting ∧
    ∀ i, i < s.cons.rdIdx.toNat → readCell s.cons.fin i = s.inLog[512 * T + i]?
  waiting : s.cons.state = codeWaiting → outs.length = T ∧ s.emitted = outs.flatten
  processing : s.cons.state = codeProcessing →
    outs.length + 1 = T ∧ s.emitted = outs.flatten ∧
      (∀ i, i < 512 → readCell s.cons.fin i = s.inLog[512 * (T - 1) + i]?) ∧ Running s
  emitting : s.cons.state = codeEmitting →
    ∃ past last, outs = past ++ [last] ∧ outs.length = T ∧
      s.emitted = past.flatten ++ last.take s.cons.emitIdx.toNat ∧
      (∀ e, e ≤ 513 → s.outByte e = elemOf last e) ∧ s.outByte s.cons.emitIdx.toNat = .ok s.cons.outData

/-- The stream invariant. -/
def StreamInv (s : State) : Prop := ∃ H T hs ts outs, StreamCounts s H T hs ts outs

/-- What R75 computes, stage by stage: `f st i` is bin i after stage st. Before the first stage the bins are the widened samples
in bit-reversed order (R70, R71); in stage st each pair of bins h = 2^(st−1) apart is the butterfly of R74 with w_j of its
position j in the group. -/
def isTransform (v : List Sample) (x : List Cplx) : Prop :=
  ∃ f : Nat → Nat → Cplx,
    (∀ i : BitVec 8, ∃ q w, v[i.reverse.toNat]? = some q ∧ widenSample q = .ok w ∧ f 0 i.toNat = ⟨w, 0x00000000#32⟩) ∧
    (∀ st, 1 ≤ st → st ≤ 8 → ∃ wm, stageTwiddle st = .ok wm ∧
      ∀ p, p < 256 → p % 2 ^ st < 2 ^ (st - 1) → ∃ w z, twiddlePower wm (p % 2 ^ st) = .ok w ∧
        cmul w (f (st - 1) (p + 2 ^ (st - 1))) = .ok z ∧ cadd (f (st - 1) p) z = .ok (f st p) ∧
        csub (f (st - 1) p) z = .ok (f st (p + 2 ^ (st - 1)))) ∧
    x.length = 256 ∧ ∀ i, i < 256 → x[i]? = some (f 8 i)

/-- What R80 computes: `acc k` is the sum before bin k, from +0.0, over ascending k with the phase (k × n) mod 256; the last sum is
divided by 256. -/
def isInverseSum (table x : List Cplx) (n : Nat) (v : F32) : Prop :=
  ∃ acc : Nat → F32, acc 0 = 0x00000000#32 ∧
    (∀ k, k < 256 → ∃ c z a b d, table[(k * n) % 256]? = some c ∧ x[k]? = some z ∧
      fmul z.re c.re = .ok a ∧ fmul z.im c.im = .ok b ∧ fsub a b = .ok d ∧ fadd (acc k) d = .ok (acc (k + 1))) ∧
    fdiv (acc 256) 0x43800000#32 = .ok v

/-- Whether an event is the turn of an agent or a reset, at the transaction level (R14). -/
def Event.isTurn : Event → Bool
  | .prod _ _ => true
  | .cons _ => true
  | .syncH => true
  | .syncT => true
  | .reset => true
  | _ => false

/-- Whether an event is an edge of a clock, or `rst_n` falling, at the cycle level. -/
def Event.isEdge : Event → Bool
  | .clkIn _ _ => true
  | .clkProc _ => true
  | .clkBoth _ _ _ _ _ => true
  | .rstN level => !level
  | _ => false

/-- The function rows of R58 (KBOUNDS, the elaboration row, among them): they change no state of the transaction level. -/
def isFunctionRow : Instr → Bool
  | .romRead _ => true
  | .cos _ => true
  | .sin _ => true
  | .bitrev _ => true
  | .stageTw _ => true
  | .cmul _ _ => true
  | .butterfly _ _ _ => true
  | .fft _ => true
  | .ifftTw _ => true
  | .ifftSum _ => true
  | .ifft _ => true
  | .kbounds _ _ _ => true
  | .mask _ => true
  | .unpack _ => true
  | .widen _ => true
  | .narrow _ => true
  | .pack _ => true
  | .filter _ => true
  | .grayEnc _ => true
  | .grayDec _ => true
  | .syncH _ => false
  | .syncT _ => false
  | .accept _ _ _ => false
  | .commitOk _ _ => false
  | .commitBp _ _ => false
  | .dequeue => false
  | .process _ => false
  | .emitSof => false
  | .emitData _ _ => false
  | .emitEof => false
  | .reset => false

/-- A list of rising `clk_in` edges, whatever SRC drives. -/
def allClkIn (evs : List Event) : Prop := ∀ e ∈ evs, ∃ v d, e = .clkIn v d

/-- A list of rising `clk_proc` edges, whatever SINK drives. -/
def allClkProc (evs : List Event) : Prop := ∀ e ∈ evs, ∃ r, e = .clkProc r

/-- n rising `clk_in` edges with `in_valid` held at 1 (R114), offering the bytes of `d` in order. -/
def heldInput (n : Nat) (d : Nat → Byte) : List Event := (List.range n).map fun k => Event.clkIn true (d k)

/-- Every value of `tv` that PROD holds or has on its way to it leaves room for a frame (R102): no check that PROD makes for its
next frame, while CONS stands still, meets backpressure. -/
def roomAhead (s : State) : Prop :=
  s.prod.tfSync ≠ [] ∧ ∀ g ∈ s.cons.tfGray :: s.prod.tfSync, ptrDiff s.slots s.prod.hf (grayInv s.cfg.fptrW g) + 2 ≤ s.slots

/-- The next event puts the CORE into reset. -/
def resetNext (s : State) : Prop := s.inbox.head? = some .reset ∨ s.inbox.head? = some (.rstN false)

/-- The operation stops neither with a fault nor with a refusal. -/
def completes (r : Result) : Prop := ∃ t, r = .next t

/-- The machine runs n steps without a stop: the safe runs (R123). -/
def runsSafely (n : Nat) (s : State) : Prop := ∃ t, Sys2Proof.core.run n s = .next t

end Sys2Proof.Machine
end

