-- ==== Sys2Proof/Certificates/Slice0/Obligations.lean ====
section
/-! DEFINITION. The statements for the provers. Each one's docstring names the rules of spec/ it formalises; where it rests on a
choice of the model, the docstring says so and names the log entry. -/

section

open Sys2Proof Sys2Proof.Machine

/-! ## Encoding and fetch -/

/-- R59, R60: a word of a source decodes to an operation exactly when the operation is well formed and the encoder writes that word
for it, for every source, every word and every operation with every operand, at every pointer width. So decoding undoes
encoding, no two words of a source stand for one operation, and a word that no row has decodes to none. -/
def Obligations.DecodeAndEncodeAgree : Prop :=
  ∀ (p : Params) (src : Source) (w : Nat) (i : Instr),
    decode p src w = some i ↔ wellFormed p i = true ∧ encode i = (src, w)

/-- R60: words written out bit by bit from the strings of `spec/opcode_table.json`, and the operations they stand for. -/
def Obligations.WrittenOutWordsDecode : Prop :=
  decode Params.default (.fn .romRead) 0b101100111 = some (.romRead 359#9) ∧
  decode Params.default (.fn .butterfly) 0b1000000000110000011 = some (.butterfly 8#4 3#8 3#7) ∧
  decode Params.default (.fn .grayDec) 0b101 = some (.grayDec 5) ∧
  decode Params.default .syncH 0b110 = some (.syncH 6) ∧
  decode Params.default .prodIn 0b010110101010 = some (.accept 1#1 0#1 0xAA#8) ∧
  decode Params.default .prodIn 0b101000000000 = some (.commitOk 0#1 0#8) ∧
  decode Params.default .prodIn 0b100111111111 = some (.commitBp 1#1 0xFF#8) ∧
  decode Params.default .prodIn 0b110100000000 = none ∧
  decode Params.default .consCtl 0b001 = some .dequeue ∧
  decode Params.default .consCtl 0b010 = some (.process 0#1) ∧
  decode Params.default .consOut 0b100000000000110101010 = some .emitSof ∧
  decode Params.default .consOut 0b100000000001100110100 = some (.emitData 1#10 0x34#8) ∧
  decode Params.default .consOut 0b101000000001110111011 = some .emitEof ∧
  decode Params.default .portRst 0b0 = some .reset

/-- How a step runs (R59; the order of the events is the model's, log entries 2 and 3). With no event to come both clocks stand
still and all state is kept (R133). A cycle-level event is its edge. A turn with no operation changes nothing but the inbox; a
turn in a state no row has is the fault of R123; a word of no row is refused; and where the word decodes to an operation, the
step is `exec` of that operation in the state from which the event was taken. An instance outside the ranges of R6 is refused:
R7 rejects some of them, and that the refusal covers the rest of R6 is the model's choice (log entry 24). An instance is legal exactly
in the ranges of R6, rejected exactly in the five cases of R7, and none of these is legal; a rejected instance is not built, any
other starts in its reset state (R137), and the default values of R6 are legal. -/
def Obligations.StepRunsTheDecodedOperation : Prop :=
  (∀ p : Params,
    (p.legal = true ↔ p.frameLen = 256 ∧ (∃ k, p.cap = 2 ^ k) ∧ 1024 ≤ p.cap ∧
      1 ≤ p.sampleRateHz ∧ p.sampleRateHz ≤ 2 ^ 24 - 1 ∧ p.lowCutoffHz ≤ 2 ^ 24 - 1 ∧ p.highCutoffHz ≤ 2 ^ 24 - 1 ∧
      2 ≤ p.syncStages ∧ p.retryWait ≤ 65535) ∧
    (p.rejected = true ↔ p.frameLen ≠ 256 ∨ (¬ ∃ k, p.cap = 2 ^ k) ∨ p.cap ≤ 512 ∨ p.sampleRateHz = 0 ∨
      p.syncStages < 2) ∧
    (p.rejected = true → p.legal = false ∧ elaborate p = none) ∧
    (p.rejected = false → elaborate p = some (State.resetOf p))) ∧
  Params.default.legal = true ∧
  (∀ s : State, s.cfg.legal = false → step s = .refused .elabRejected) ∧
  (∀ s : State, s.cfg.legal = true → s.inbox = [] → step s = .next s) ∧
  (∀ (s : State) (ev : Event) (rest : List Event), s.cfg.legal = true → s.inbox = ev :: rest → ev.isCycle = true →
    step s = cycleStep ev { s with inbox := rest }) ∧
  (∀ (s : State) (ev : Event) (rest : List Event), s.cfg.legal = true → s.inbox = ev :: rest → ev.isCycle = false →
    (s.fetch ev = .idle → step s = .next { s with inbox := rest }) ∧
    (∀ f, s.fetch ev = .stop f → step s = .fault f) ∧
    (∀ src w, s.fetch ev = .word src w → decode s.cfg src w = none → step s = .refused .badEncoding) ∧
    (∀ src w i, s.fetch ev = .word src w → decode s.cfg src w = some i → wellFormed s.cfg i = true →
      step s = exec i { s with inbox := rest }))

/-- R59 for PROD: its turn takes the one row its state selects, and none in IDLE or ACCUM while SRC offers nothing. A turn in
reset changes nothing (R126 item 1). -/
def Obligations.ProdTurnTakesItsRow : Prop :=
  ∀ (s : State) (v : Bool) (d : Byte) (rest : List Event), s.cfg.legal = true → s.inbox = .prod v d :: rest →
    (s.prod.state ≠ codeUnused → s.prodOutOfReset = false → step s = .next { s with inbox := rest }) ∧
    (s.prodOutOfReset = true →
      (s.prod.state = codeIdle → v = true → ∃ c, step s = exec (.accept 0#1 c d) { s with inbox := rest }) ∧
      (s.prod.state = codeAccum → v = true → ∃ c, step s = exec (.accept 1#1 c d) { s with inbox := rest }) ∧
      (s.prod.state = codeIdle ∨ s.prod.state = codeAccum → v = false → step s = .next { s with inbox := rest }) ∧
      (s.prod.state = codeCommit → s.canCommit = true →
        ∃ b, step s = exec (.commitOk b d) { s with inbox := rest }) ∧
      (s.prod.state = codeCommit → s.canCommit = false →
        ∃ b, step s = exec (.commitBp b d) { s with inbox := rest }))

/-- R59 for CONS: its turn takes the one row its state selects, none in WAITING while `frames_ready` = 0, and none in EMITTING
while SINK takes nothing. The byte of a word of EMITTING is byte(emit_idx) of R118. -/
def Obligations.ConsTurnTakesItsRow : Prop :=
  ∀ (s : State) (r : Bool) (rest : List Event), s.cfg.legal = true → s.inbox = .cons r :: rest →
    (s.cons.state ≠ codeUnused → s.consOutOfReset = false → step s = .next { s with inbox := rest }) ∧
    (s.consOutOfReset = true →
      (s.cons.state = codeWaiting → s.framesReady = 0 → step s = .next { s with inbox := rest }) ∧
      (s.cons.state = codeWaiting → 1 ≤ s.framesReady → step s = exec .dequeue { s with inbox := rest }) ∧
      (s.cons.state = codeProcessing → ∃ f, step s = exec (.process f) { s with inbox := rest }) ∧
      (s.cons.state = codeEmitting → r = false → step s = .next { s with inbox := rest }) ∧
      (s.cons.state = codeEmitting → r = true → s.cons.emitIdx = 0#10 →
        step s = exec .emitSof { s with inbox := rest }) ∧
      (s.cons.state = codeEmitting → r = true → 1 ≤ s.cons.emitIdx.toNat → s.cons.emitIdx.toNat ≤ 512 →
        ∀ b, s.outByte s.cons.emitIdx.toNat = .ok b →
          step s = exec (.emitData s.cons.emitIdx b) { s with inbox := rest }) ∧
      (s.cons.state = codeEmitting → r = true → s.cons.emitIdx = 513#10 →
        step s = exec .emitEof { s with inbox := rest }))

/-- R58, R98, R134: the turns of SYNC_H and SYNC_T carry the Gray code of their pointer, and a reset event is the row RESET. -/
def Obligations.SyncAndResetTurnsTakeTheirRows : Prop :=
  ∀ (s : State) (rest : List Event), s.cfg.legal = true →
    (s.inbox = .syncH :: rest → s.consOutOfReset = true → s.prod.hf < s.slots →
      step s = exec (.syncH (grayOf s.prod.hf)) { s with inbox := rest }) ∧
    (s.inbox = .syncT :: rest → s.prodOutOfReset = true → s.cons.tf < s.slots →
      step s = exec (.syncT (grayOf s.cons.tf)) { s with inbox := rest }) ∧
    (s.inbox = .reset :: rest → step s = exec .reset { s with inbox := rest })

/-- R58 ("pure functions used inside a step; they change no state"), R16: a function row that answers changes no state of the
CORE, at either level. What it changes is the model's own: the arrays that functions called by name work on and the field that
records the result (DESIGN CHOICE, log entry 6). -/
def Obligations.FunctionRowsChangeNoTransactionState : Prop :=
  ∀ (i : Instr) (s t : State), isFunctionRow i = true → exec i s = .next t →
    t = { s with work := t.work, fnOut := t.fnOut } ∧ ∀ a, t.ramContents a = s.ramContents a

/-! ## twiddle_rom -/

/-- R64: ROM_READ returns the word of the table at an address below 360 and changes nothing else; an address of 360 or more
faults; and the words the rule names. -/
def Obligations.RomReadReturnsTheTableWord : Prop :=
  (∀ (a : BitVec 9) (s : State), a.toNat < 360 →
    ∃ v, romImage[a.toNat]? = some v ∧ exec (.romRead a) s = .next (s.returning (.word v))) ∧
  (∀ (a : BitVec 9) (s : State), 360 ≤ a.toNat → exec (.romRead a) s = .fault .romAddress) ∧
  romImage.length = 360 ∧
  romImage[90]? = some 0x00000000#32 ∧ romImage[270]? = some 0x00000000#32 ∧
  romImage[0]? = some 0x3F800000#32 ∧ romImage[180]? = some 0xBF800000#32 ∧ romImage[1]? = some 0x3F7FF605#32

/-- R65, R123: COS computes the nine lines in their order, and answers for every angle of magnitude at most 2^100; a NaN or an
infinity faults. -/
def Obligations.CosineFollowsItsNineLines : Prop :=
  ∀ (t : F32) (s : State),
    (atMost 100 t → ∃ d q m r e x k f t0 t1 df g v,
      fdiv (fabs t) twoPi = .ok d ∧ f32OfInt (floorInt d) = .ok q ∧
      fmul q twoPi = .ok m ∧ fsub (fabs t) m = .ok r ∧
      fdiv r twoPi = .ok e ∧ fmul e f360 = .ok x ∧
      f32OfInt (floorInt x) = .ok k ∧ fsub x k = .ok f ∧
      romImage[(floorInt x % 360).toNat]? = some t0 ∧ romImage[((floorInt x + 1) % 360).toNat]? = some t1 ∧
      fsub t1 t0 = .ok df ∧ fmul f df = .ok g ∧ fadd t0 g = .ok v ∧
      exec (.cos t) s = .next (s.returning (.word v))) ∧
    (finite t = false → exec (.cos t) s = .fault .trigNonFinite)

/-- R66, R123: SIN is the cosine of π/2 − |θ|, negated for θ < 0, and answers for every angle of magnitude at most 2^100; −0.0
is not < 0; a NaN or an infinity faults. Cosine is even (line 1 of R65), and sine(−θ) = fneg(sine(θ)) bit for bit for θ > 0. -/
def Obligations.SineReflectsTheCosine : Prop :=
  (∀ t : F32, cosine (fneg t) = cosine t ∧ (0 < fvalue t → sine (fneg t) = (sine t).map fneg)) ∧
  ∀ (t : F32) (s : State),
    (atMost 100 t → 0 ≤ fvalue t → ∃ a v, fsub halfPi t = .ok a ∧ cosine a = .ok v ∧
      exec (.sin t) s = .next (s.returning (.word v))) ∧
    (atMost 100 t → fvalue t < 0 → ∃ a v, fsub halfPi (fneg t) = .ok a ∧ cosine a = .ok v ∧
      exec (.sin t) s = .next (s.returning (.word (fneg v)))) ∧
    (finite t = false → exec (.sin t) s = .fault .trigNonFinite)

/-- R65, R66 ("Exceptions: none for finite θ"): COS and SIN answer for every finite angle. -/
def Obligations.TrigIsTotalOnFiniteAngles : Prop :=
  ∀ t : F32, finite t = true → (∃ v, cosine t = .ok v) ∧ (∃ v, sine t = .ok v)

/-! ## streaming_fft -/

/-- R71: BITREV puts X[rev8(i)] at every index i, where rev8 reverses the 8 bits, and changes no other state. That a call by name
takes X from the model's own arrays is log entry 6, and that it returns the new X[i] is log entry 7 (DESIGN CHOICE both). -/
def Obligations.BitReversalPermutesTheSpectrum : Prop :=
  ∀ (i : BitVec 8) (s : State) (x : List Cplx), s.work.spectrum = .ok x →
    ∃ v t, exec (.bitrev i) s = .next t ∧
      (∀ k : BitVec 8, readCell t.work.x k.toNat = x[k.reverse.toNat]?) ∧
      x[i.reverse.toNat]? = some v ∧
      t = { s with fnOut := .complex v, work := { s.work with x := t.work.x } }

/-- R72, R75, R76: the eight stage twiddles are the values `95_test_vectors.md` §3 lists, and STAGE_TW returns the stage's; the
powers follow w_0 = (1.0, +0.0) and w_{j+1} = cmul(w_j, wm), where cmul is the product CMUL returns; and every power a stage uses
has modulus at most 1.0. A stage outside 1 … 8 is no operand of the row (R58); the model refuses it (log entry 5). -/
def Obligations.StageTwiddlesAndTheirPowers : Prop :=
  (∀ (st : BitVec 4) (s : State), 1 ≤ st.toNat → st.toNat ≤ 8 →
    ∃ w, [⟨0xBF800000#32, 0x80000000#32⟩, ⟨0x00000000#32, 0xBF800000#32⟩, ⟨0x3F3504F3#32, 0xBF3504F3#32⟩,
        ⟨0x3F6C8110#32, 0xBEC3ED2C#32⟩, ⟨0x3F7B12E9#32, 0xBE47C446#32⟩, ⟨0x3F7EC219#32, 0xBDC8BB67#32⟩,
        ⟨0x3F7FAF8A#32, 0xBD48FA14#32⟩, (⟨0x3F7FE9DB#32, 0xBCC9086E#32⟩ : Cplx)][st.toNat - 1]? = some w ∧
      stageTwiddle st.toNat = .ok w ∧ exec (.stageTw st) s = .next (s.returning (.complex w)) ∧
      ∀ j, j < 2 ^ (st.toNat - 1) → ∃ z, twiddlePower w j = .ok z ∧ finite z.re = true ∧ finite z.im = true ∧
        fvalue z.re * fvalue z.re + fvalue z.im * fvalue z.im ≤ 2 ^ 298) ∧
  (∀ wm : Cplx, twiddlePower wm 0 = .ok ⟨0x3F800000#32, 0x00000000#32⟩ ∧
    ∀ (j : Nat) (w z : Cplx) (s : State), twiddlePower wm j = .ok w →
      (twiddlePower wm (j + 1) = .ok z ↔ exec (.cmul w wm) s = .next (s.returning (.complex z)))) ∧
  (∀ (st : BitVec 4) (s : State), st.toNat < 1 ∨ 8 < st.toNat → exec (.stageTw st) s = .refused .badOperand)

/-- R73, R123: CMUL rounds four products, then their difference and their sum; for operands of magnitude at most 2^60 it
answers; a NaN or an infinity among the operands faults. -/
def Obligations.ComplexProductRoundsEachOperation : Prop :=
  ∀ (a b : Cplx) (s : State),
    (bothAtMost 60 a → bothAtMost 60 b → ∃ p1 p2 p3 p4 re im,
      fmul a.re b.re = .ok p1 ∧ fmul a.im b.im = .ok p2 ∧ fmul a.re b.im = .ok p3 ∧ fmul a.im b.re = .ok p4 ∧
      fsub p1 p2 = .ok re ∧ fadd p3 p4 = .ok im ∧
      exec (.cmul a b) s = .next (s.returning (.complex ⟨re, im⟩))) ∧
    ((finite a.re && finite a.im && finite b.re && finite b.im) = false → exec (.cmul a b) s = .fault .nonFinite)

/-- The corner case of R73: the product does not depend on the order of the operands, bit for bit, stops included. -/
def Obligations.ComplexProductIsCommutative : Prop :=
  ∀ (a b : Cplx) (s : State), exec (.cmul a b) s = exec (.cmul b a) s

/-- R74, R75: BUTTERFLY with w_j of its stage replaces X[p] and X[p + h] from their old values and leaves every other bin and
all other state, for every pair of bins whose product, sum and difference stay in the finite range, and they do for parts of
magnitude at most 2^60. That it returns the new X[p] is log entry 7, that a call by name works on the model's own arrays log entry
6, and that an operand outside the row's range is refused log entry 5 (the model's choices). -/
def Obligations.ButterflyUpdatesItsTwoBins : Prop :=
  ∀ (st : BitVec 4) (p : BitVec 8) (j : BitVec 7) (s : State),
    (butterflyInRange st p j = true → ∃ wm w, stageTwiddle st.toNat = .ok wm ∧ twiddlePower wm j.toNat = .ok w ∧
      ∀ u o, readCell s.work.x p.toNat = some u → readCell s.work.x (p.toNat + 2 ^ (st.toNat - 1)) = some o →
        (bothAtMost 60 u → bothAtMost 60 o →
          ∃ z a b, Machine.cmul w o = .ok z ∧ cadd u z = .ok a ∧ csub u z = .ok b) ∧
        (∀ z a b, Machine.cmul w o = .ok z → cadd u z = .ok a → csub u z = .ok b →
          ∃ t, exec (.butterfly st p j) s = .next t ∧
            readCell t.work.x p.toNat = some a ∧ readCell t.work.x (p.toNat + 2 ^ (st.toNat - 1)) = some b ∧
            (∀ k, k ≠ p.toNat → k ≠ p.toNat + 2 ^ (st.toNat - 1) → readCell t.work.x k = readCell s.work.x k) ∧
            t = { s with fnOut := .complex a, work := { s.work with x := t.work.x } })) ∧
    (butterflyInRange st p j = false → exec (.butterfly st p j) s = .refused .badOperand)

/-- R70, R71, R75: FFT answers for every frame, leaves the 256 bins of `isTransform` in X (the widened samples in bit-reversed
order, then stages 1 to 8 of butterflies) and changes no other state. The bound is the crude one of three times per stage. That a
call by name reads FIN is log entry 8 (DEDUCED), that it works on the model's own arrays log entry 6, and that it returns X[k] log
entry 7 (DESIGN CHOICE). -/
def Obligations.FftTransformsEveryFrame : Prop :=
  ∀ (k : BitVec 8) (s : State) (v : List Sample), s.finSamples = .ok v →
    ∃ x z t, fftFrame v = .ok x ∧ isTransform v x ∧ binsAtMost 28 x ∧ exec (.fft k) s = .next t ∧
      (∀ i, i < 256 → readCell t.work.x i = x[i]?) ∧ x[k.toNat]? = some z ∧
      t = { s with fnOut := .complex z, work := { s.work with x := t.work.x } }

/-- R76: after the transform of any frame every component is finite and at most 32768 × 2^8 × (1 + 2^−18) = 8388640. -/
def Obligations.FftBinsStayBelowTheirBound : Prop :=
  ∀ v : List Sample, v.length = 256 → ∃ x, fftFrame v = .ok x ∧ x.length = 256 ∧
    ∀ z ∈ x, finite z.re = true ∧ finite z.im = true ∧
      funits z.re ≤ 8388640 * 2 ^ 149 ∧ funits z.im ≤ 8388640 * 2 ^ 149

/-! ## streaming_ifft -/

/-- R79: IFFT_TW writes COSP[p] and SINP[p], the cosine and the sine of (TWO_PI × p) / 256, both of magnitude at most 1.0, and
leaves every other entry and all other state. That it returns the pair is log entry 7, and that a call by name writes the model's
own arrays log entry 6. -/
def Obligations.PhasePairIsWrittenAndBounded : Prop :=
  ∀ (p : BitVec 8) (s : State), ∃ k m φ c sn t,
    f32OfInt p.toNat = .ok k ∧ fmul twoPi k = .ok m ∧ fdiv m f256 = .ok φ ∧ cosine φ = .ok c ∧ sine φ = .ok sn ∧
    phasePair p.toNat = .ok ⟨c, sn⟩ ∧ atMost 0 c ∧ atMost 0 sn ∧ exec (.ifftTw p) s = .next t ∧
    readCell t.work.cosp p.toNat = some c ∧ readCell t.work.sinp p.toNat = some sn ∧
    (∀ i, i ≠ p.toNat → readCell t.work.cosp i = readCell s.work.cosp i) ∧
    (∀ i, i ≠ p.toNat → readCell t.work.sinp i = readCell s.work.sinp i) ∧
    t = { s with fnOut := .complex ⟨c, sn⟩, work := { s.work with cosp := t.work.cosp, sinp := t.work.sinp } }

/-- R80, R82: for a spectrum of bins of magnitude at most 2^28, IFFT_SUM answers, writes to y[n] the sum of `isInverseSum` (from
+0.0, over ascending k, the phase (k × n) mod 256, divided by 256) over the 256 phase pairs of R79, and leaves every other output
and all other state; the value is at most 2^30 in magnitude. That it evaluates the phase pairs itself, whatever COSP and SINP hold,
is log entry 29 (DEDUCED), and that a call by name works on the model's own arrays log entry 6. -/
def Obligations.InverseSumWritesOneOutput : Prop :=
  ∀ (n : BitVec 8) (s : State) (x : List Cplx), s.work.spectrum = .ok x → binsAtMost 28 x →
    ∃ table v t, phaseTable = .ok table ∧ (∀ p, p < 256 → ∃ c, phasePair p = .ok c ∧ table[p]? = some c) ∧
      ifftSum table x n.toNat = .ok v ∧ isInverseSum table x n.toNat v ∧ atMost 30 v ∧
      exec (.ifftSum n) s = .next t ∧ readCell t.work.y n.toNat = some v ∧
      (∀ i, i ≠ n.toNat → readCell t.work.y i = readCell s.work.y i) ∧
      t = { s with fnOut := .word v, work := { s.work with y := t.work.y } }

/-- R81: for such a spectrum IFFT answers, fills both phase tables and leaves in y[m] the sum of R80 for every m, and changes no
other state. That it returns y[n] for its index is log entry 7 (DESIGN CHOICE), and that a call by name works on the model's own
arrays log entry 6. -/
def Obligations.InverseTransformComputesEveryOutput : Prop :=
  ∀ (n : BitVec 8) (s : State) (x : List Cplx), s.work.spectrum = .ok x → binsAtMost 28 x →
    ∃ table t w, phaseTable = .ok table ∧ exec (.ifft n) s = .next t ∧
      (∀ m, m < 256 → ∃ v, ifftSum table x m = .ok v ∧ isInverseSum table x m v ∧ readCell t.work.y m = some v) ∧
      (∀ m, m < 256 → ∃ c, phasePair m = .ok c ∧ table[m]? = some c ∧
        readCell t.work.cosp m = some c.re ∧ readCell t.work.sinp m = some c.im) ∧
      readCell t.work.y n.toNat = some w ∧
      t = { s with fnOut := .word w, work := { s.work with cosp := t.work.cosp, sinp := t.work.sinp, y := t.work.y } }

/-! ## bandpass_spectral_mask -/

/-- R85, R7: KBOUNDS returns the exact floors of LOW / (SR / 256) and HIGH / (SR / 256) and changes nothing else; SR = 0 is
rejected (log entry 28). -/
def Obligations.MaskBoundsAreExactFloors : Prop :=
  ∀ (r l h : BitVec 32) (s : State),
    (r ≠ 0#32 → ∃ kl kh, exec (.kbounds r l h) s = .next (s.returning (.bounds kl kh)) ∧
      kl * r.toNat ≤ l.toNat * 256 ∧ l.toNat * 256 < (kl + 1) * r.toNat ∧
      kh * r.toNat ≤ h.toNat * 256 ∧ h.toNat * 256 < (kh + 1) * r.toNat) ∧
    (r = 0#32 → exec (.kbounds r l h) s = .refused .elabRejected)

/-- R86: MASK writes (+0.0, +0.0) to every bin below K_MIN or above K_MAX, leaves every other bin bit for bit and changes no
other state. That it returns the new X[i] is log entry 7 (DESIGN CHOICE), and that a call by name works on the model's own arrays
log entry 6. -/
def Obligations.MaskZeroesOutsideThePassBand : Prop :=
  ∀ (i : BitVec 8) (s : State) (x : List Cplx), s.work.spectrum = .ok x →
    ∃ v t, exec (.mask i) s = .next t ∧
      (∀ k, k < 256 → k < s.cfg.kMin ∨ s.cfg.kMax < k → readCell t.work.x k = some ⟨0x00000000#32, 0x00000000#32⟩) ∧
      (∀ k, k < 256 → s.cfg.kMin ≤ k → k ≤ s.cfg.kMax → readCell t.work.x k = x[k]?) ∧
      readCell t.work.x i.toNat = some v ∧
      t = { s with fnOut := .complex v, work := { s.work with x := t.work.x } }

/-- R87: a second MASK with the same cutoffs answers and leaves every bin as the first left it, bit for bit. That a call by name works
on the model's own arrays is log entry 6. -/
def Obligations.MaskTwiceIsMaskOnce : Prop :=
  ∀ (i j : BitVec 8) (s t : State), exec (.mask i) s = .next t →
    ∃ u, exec (.mask j) t = .next u ∧ u.work.x = t.work.x ∧ ∀ k, readCell u.work.x k = readCell t.work.x k

/-! ## fixed_point_converter and the pipeline -/

/-- R91, R42 point 2: UNPACK returns sample k of its frame, b[2k] + 256·b[2k+1] − 65536·b[2k+1][7], and changes nothing else. That
the frame of a call by name is the one in the slot of the tail pointer is log entry 8 (DEDUCED); that slot is read only while
hv ≠ tf, and otherwise the call faults (log entry 20). -/
def Obligations.UnpackReadsTheTailSlot : Prop :=
  ∀ (k : BitVec 8) (s : State),
    (∀ b : List Byte, 1 ≤ s.framesReady → s.tailFrameBytes = .ok b →
      ∃ (lo hi : Byte) (v : Sample), b[2 * k.toNat]? = some lo ∧ b[2 * k.toNat + 1]? = some hi ∧
        v.toInt = (lo.toNat : Int) + 256 * hi.toNat - 65536 * (if hi.getLsbD 7 then 1 else 0) ∧
        exec (.unpack k) s = .next (s.returning (.sample v))) ∧
    (s.cfg.legal = true → s.cons.tf < s.slots → s.hv = s.cons.tf → exec (.unpack k) s = .fault .ringOverrun)

/-- R92: WIDEN returns the exact binary32 value of the Sample, +0.0 for 0, and changes nothing else; and the rule's examples. -/
def Obligations.WidenIsExact : Prop :=
  (∀ (v : Sample) (s : State), ∃ w, exec (.widen v) s = .next (s.returning (.word w)) ∧
    finite w = true ∧ fvalue w = v.toInt * 2 ^ 149 ∧ (v = 0#16 → w = 0x00000000#32)) ∧
  widenSample 0x8000#16 = .ok 0xC7000000#32 ∧ widenSample 10000#16 = .ok 0x461C4000#32 ∧
  widenSample 0xFFFF#16 = .ok 0xBF800000#32

/-- R93: NARROW rounds a finite y with |y| < 2^31 toward zero to an integer t and returns ((t + 32768) mod 65536) − 32768,
changing nothing else; beyond that it faults with NarrowRange, and a NaN or an infinity faults with NonFinite. For an infinity both
rows of R123 hold, and that the model takes NonFinite is log entry 25 (DEDUCED). -/
def Obligations.NarrowTruncatesAndWraps : Prop :=
  ∀ (y : F32) (s : State),
    (finite y = true → funits y < 2 ^ 180 → ∃ (t : Int) (v : Sample),
      (t.natAbs : Int) * 2 ^ 149 ≤ funits y ∧ (funits y : Int) < (t.natAbs + 1) * 2 ^ 149 ∧ 0 ≤ t * fvalue y ∧
      v.toInt = (t + 32768) % 65536 - 32768 ∧ exec (.narrow y) s = .next (s.returning (.sample v))) ∧
    (finite y = true → 2 ^ 180 ≤ funits y → exec (.narrow y) s = .fault .narrowRange) ∧
    (finite y = false → exec (.narrow y) s = .fault .nonFinite)

/-- R94: PACK returns the two bytes v[k][7:0] and v[k][15:8] of sample k of its frame and changes nothing else; and packing and
unpacking undo each other. That the frame of a call by name is FOUT is log entry 8 (DEDUCED). -/
def Obligations.PackIsTheInverseOfUnpack : Prop :=
  (∀ (k : BitVec 8) (s : State) (v : List Sample), s.foutSamples = .ok v →
    ∃ z, v[k.toNat]? = some z ∧
      exec (.pack k) s = .next (s.returning (.bytes (z.extractLsb' 0 8) (z.extractLsb' 8 8)))) ∧
  (∀ v : List Sample, unpackBytes (packSamples v) = v ∧
    ∀ i z, v[i]? = some z →
      (packSamples v)[2 * i]? = some (z.extractLsb' 0 8) ∧ (packSamples v)[2 * i + 1]? = some (z.extractLsb' 8 8)) ∧
  (∀ b : List Byte, b.length % 2 = 0 → packSamples (unpackBytes b) = b)

/-- R95, R124: the pipeline answers on every frame of 256 Samples, at every pair of mask bounds, with 256 Samples. -/
def Obligations.FilterIsTotalOnEveryFrame : Prop :=
  ∀ (kMin kMax : Nat) (v : List Sample), v.length = 256 →
    ∃ r, filterFrame kMin kMax v = .ok r ∧ r.out.length = 256

/-- R95: FILTER answers for every frame: the transform, the mask, the inverse transform and the narrowing one after the other. It
changes no state of the CORE. That a call by name reads FIN is log entry 8 (DEDUCED), that it returns out[n] log entry 7, and that
it leaves its arrays in the model's own log entry 6 (DESIGN CHOICE). -/
def Obligations.FilterReturnsTheFilteredSample : Prop :=
  ∀ (n : BitVec 8) (s : State) (v : List Sample), s.finSamples = .ok v →
    ∃ x table y out z t, fftFrame v = .ok x ∧ phaseTable = .ok table ∧
      ifftFrame table (maskSpectrum s.cfg.kMin s.cfg.kMax x) = .ok y ∧ mapChecked narrowWord y = .ok out ∧
      out[n.toNat]? = some z ∧ exec (.filter n) s = .next t ∧
      (∀ i, i < 256 → readCell t.work.y i = y[i]?) ∧
      t = { s with fnOut := .sample z, work := t.work }

/-- R88 and the corner case of R85: with K_MIN > K_MAX the mask zeroes every bin, and every output sample of every frame is 0;
with K_MIN ≥ 1 every constant frame filters to 256 zeros. -/
def Obligations.MaskedOutFramesAreSilent : Prop :=
  (∀ (kMin kMax : Nat) (v : List Sample), v.length = 256 → kMax < kMin →
    ∃ r, filterFrame kMin kMax v = .ok r ∧ r.x = List.replicate 256 ⟨0x00000000#32, 0x00000000#32⟩ ∧
      r.out = List.replicate 256 0#16) ∧
  (∀ (kMin kMax : Nat) (c : Sample), 1 ≤ kMin →
    ∃ r, filterFrame kMin kMax (List.replicate 256 c) = .ok r ∧ r.out = List.replicate 256 0#16)

/-! ## async_fifo -/

/-- R97: GRAY_ENC returns b XOR (b >> 1), GRAY_DEC undoes it bit by bit from the top; two neighbouring pointers, the wrap
included, have codes that differ in exactly one bit; for F = 2 the code is the identity; and the rule's examples. -/
def Obligations.GrayRowsFollowTheCode : Prop :=
  (∀ (b : Nat) (s : State), b < 2 ^ s.cfg.fptrW → ∃ g, g = b ^^^ (b >>> 1) ∧ g < 2 ^ s.cfg.fptrW ∧
    exec (.grayEnc b) s = .next (s.returning (.pointer g)) ∧
    exec (.grayDec g) s = .next (s.returning (.pointer b))) ∧
  (∀ (g : Nat) (s : State), g < 2 ^ s.cfg.fptrW → ∃ b, b < 2 ^ s.cfg.fptrW ∧
    (∀ i, i < s.cfg.fptrW → b.testBit i = xor (b.testBit (i + 1)) (g.testBit i)) ∧
    exec (.grayDec g) s = .next (s.returning (.pointer b))) ∧
  (∀ w b : Nat, 1 ≤ w → b < 2 ^ w → ∃ k, k < w ∧ grayOf ((b + 1) % 2 ^ w) ^^^ grayOf b = 2 ^ k) ∧
  (∀ b, b < 2 → grayOf b = b) ∧
  grayOf 3 = 0b010 ∧ grayOf 4 = 0b110 ∧ grayOf 7 = 0b100 ∧ grayInv 3 0b101 = 6

/-- R98: out of reset SYNC_H sets `hv` to `hf` and SYNC_T sets `tv` to `tf`. Beside the view, only the registers of the crossing
change, which stand for it (log entry 9). In reset the rows are not enabled (R126 item 1). -/
def Obligations.SyncRowsCopyThePointer : Prop :=
  ∀ (g : Nat) (s : State), s.cfg.legal = true →
    (s.consOutOfReset = true → s.prod.hf < s.slots → s.cons.hfSync ≠ [] →
      ∃ t, exec (.syncH g) s = .next t ∧ t.hv = s.prod.hf ∧ t.tv = s.tv ∧
        t = { s with
          prod := { s.prod with hfGray := t.prod.hfGray }
          cons := { s.cons with hfSync := t.cons.hfSync } }) ∧
    (s.prodOutOfReset = true → s.cons.tf < s.slots → s.prod.tfSync ≠ [] →
      ∃ t, exec (.syncT g) s = .next t ∧ t.tv = s.cons.tf ∧ t.hv = s.hv ∧
        t = { s with
          prod := { s.prod with tfSync := t.prod.tfSync }
          cons := { s.cons with tfGray := t.cons.tfGray } }) ∧
    (s.consOutOfReset = false → exec (.syncH g) s = .refused .notEnabled) ∧
    (s.prodOutOfReset = false → exec (.syncT g) s = .refused .notEnabled)

/-- R101, R102: `frames_ready` is (hv − tf) mod F, and `can_commit` holds exactly when (hf − tv) mod F ≤ F − 2. R27: each status port
shows the register or the quantity it names, with the reset value of its column; where the control registers are legal no state
port shows 0b11 and `st_stage_cnt` is at most 512, and where the ring invariant holds the three pointer-wide ports fit FPTR_W bits. -/
def Obligations.ReadinessAndRoomArePointerDifferences : Prop :=
  (∀ s : State, s.cfg.legal = true →
    (s.framesReady : Int) = ((s.hv : Int) - s.cons.tf) % s.slots ∧
    (s.canCommit = true ↔ ((s.prod.hf : Int) - s.tv) % s.slots ≤ s.slots - 2) ∧
    (s.stFramesReady : Int) = ((s.hv : Int) - s.cons.tf) % s.slots ∧
    (RingInv s → s.stHeadIdx < 2 ^ s.cfg.fptrW ∧ s.stTailIdx < 2 ^ s.cfg.fptrW ∧ s.stFramesReady < 2 ^ s.cfg.fptrW)) ∧
  (∀ s : State,
    s.stProdState = s.prod.state ∧ s.stStageCnt = s.prod.stageCnt ∧ s.stHeadIdx = s.prod.hf ∧
    s.stBpCount = s.prod.bpCount ∧ s.stConsState = s.cons.state ∧ s.stFramesReady = s.framesReady ∧
    s.stTailIdx = s.cons.tf ∧
    (ControlInv s → s.stProdState ≠ 0b11#2 ∧ s.stConsState ≠ 0b11#2 ∧ s.stStageCnt.toNat ≤ 512)) ∧
  (∀ p : Params, p.legal = true →
    (State.resetOf p).stProdState = 0b00#2 ∧ (State.resetOf p).stStageCnt = 0#10 ∧ (State.resetOf p).stHeadIdx = 0 ∧
    (State.resetOf p).stBpCount = 0#32 ∧ (State.resetOf p).stConsState = 0b00#2 ∧
    (State.resetOf p).stFramesReady = 0 ∧ (State.resetOf p).stTailIdx = 0)

/-! ## frame_aggregator -/

/-- R108: in IDLE or ACCUM, ACCEPT stores the byte at `stage_cnt`, counts it, and moves PROD to COMMIT with the 512th byte and to
ACCUM before. Nothing else changes but the sub-phase of COMMIT (R113). No byte is taken in COMMIT. -/
def Obligations.AcceptStagesTheByte : Prop :=
  ∀ (st c : BitVec 1) (d : Byte) (s : State),
    (s.inReady = true → s.prod.state = st.setWidth 2 → s.prod.stageCnt.toNat < 512 →
      ∃ t, exec (.accept st c d) s = .next t ∧
        readCell t.prod.stage s.prod.stageCnt.toNat = some d ∧
        (∀ i, i ≠ s.prod.stageCnt.toNat → readCell t.prod.stage i = readCell s.prod.stage i) ∧
        t.prod.stageCnt.toNat = s.prod.stageCnt.toNat + 1 ∧
        t.prod.state = (if s.prod.stageCnt.toNat + 1 = 512 then codeCommit else codeAccum) ∧
        t.inLog = s.inLog ++ [d] ∧ (∀ a, t.ramContents a = s.ramContents a) ∧
        t = { s with
          inLog := t.inLog
          prod := { s.prod with
            stage := t.prod.stage, stageCnt := t.prod.stageCnt, state := t.prod.state, cphase := t.prod.cphase } }) ∧
    (s.prod.state = codeCommit → exec (.accept st c d) s = .refused .notEnabled)

/-- R109, R31: in COMMIT with `can_commit`, COMMIT_OK writes the 512 staged bytes to the slot of `hf` and no other byte of the RAM,
advances `hf` mod F, clears `stage_cnt` and `bp_flag` and returns PROD to IDLE. Nothing else changes but the sub-phase and the
copy index of the cycle level (log entry 9). -/
def Obligations.CommitPublishesTheStagedFrame : Prop :=
  ∀ (v : BitVec 1) (x : Byte) (s : State) (frame : List Byte), s.cfg.legal = true →
    s.prodOutOfReset = true → s.prod.state = codeCommit → s.canCommit = true → readRun s.prod.stage 0 512 = .ok frame →
    ∃ t, exec (.commitOk v x) s = .next t ∧
      (∀ i, i < 512 → readCell t.ram (ramAddr s.cfg s.prod.hf i) = frame[i]?) ∧
      (∀ a, (∀ i, i < 512 → a ≠ ramAddr s.cfg s.prod.hf i) → t.ramContents a = s.ramContents a) ∧
      t.prod.hf = (s.prod.hf + 1) % s.slots ∧
      t = { s with
        ram := t.ram
        prod := { s.prod with
          hf := t.prod.hf, stageCnt := 0#10, bpFlag := false, state := codeIdle
          cphase := .check, copyIdx := t.prod.copyIdx } }

/-- R105, R110: a commit attempted when `can_commit` is false changes only `bp_flag` and `bp_count`: both pointers, both views,
`frames_ready` and the RAM stay, and PROD stays in COMMIT. `bp_count` counts the frame once. -/
def Obligations.BackpressureLeavesTheRingAlone : Prop :=
  ∀ (v : BitVec 1) (x : Byte) (s : State), s.prodOutOfReset = true → s.prod.state = codeCommit → s.canCommit = false →
    ∃ t, exec (.commitBp v x) s = .next t ∧
      t.prod.hf = s.prod.hf ∧ t.cons.tf = s.cons.tf ∧ t.hv = s.hv ∧ t.tv = s.tv ∧ t.framesReady = s.framesReady ∧
      (∀ a, t.ramContents a = s.ramContents a) ∧ t.prod.state = codeCommit ∧
      t = { s with prod := { s.prod with
        bpFlag := true
        bpCount := if s.prod.bpFlag then s.prod.bpCount else s.prod.bpCount + 1#32 } }

/-! ## consumer_fsm -/

/-- R116: in WAITING with `frames_ready` ≥ 1, DEQUEUE copies the 512 bytes of the slot of `tf` into FIN, advances `tf` mod F and
starts PROCESSING; `frames_ready` falls by one. The RAM and all else stay, but for the copy registers and the sequencer's
counters of the cycle level (log entry 9). -/
def Obligations.DequeueTakesTheTailFrame : Prop :=
  ∀ (s : State) (frame : List Byte), s.cfg.legal = true → s.consOutOfReset = true → s.cons.state = codeWaiting →
    1 ≤ s.framesReady → s.tailFrameBytes = .ok frame →
    ∃ t, exec .dequeue s = .next t ∧
      readRun t.cons.fin 0 512 = .ok frame ∧ t.finSamples = .ok (unpackBytes frame) ∧
      t.cons.tf = (s.cons.tf + 1) % s.slots ∧ t.framesReady + 1 = s.framesReady ∧
      (∀ a, t.ramContents a = s.ramContents a) ∧
      t = { s with
        cons := { s.cons with
          fin := t.cons.fin, tf := t.cons.tf, state := codeProcessing, dqActive := false, rdIdx := t.cons.rdIdx }
        pipe := { s.pipe with
          phase := t.pipe.phase, stageCtr := t.pipe.stageCtr, blockCtr := t.pipe.blockCtr, indexCtr := t.pipe.indexCtr } }

/-- R117: in PROCESSING, PROCESS answers for every frame in FIN, fills FOUT with the filtered frame, sets `emit_idx` to 0 and
starts EMITTING, with 0xAA offered (R120). All else stays but the working storage. -/
def Obligations.ProcessFiltersTheFrame : Prop :=
  ∀ (f : BitVec 1) (s : State) (v : List Sample), s.consOutOfReset = true → s.cons.state = codeProcessing →
    s.finSamples = .ok v →
    ∃ r t, filterFrame s.cfg.kMin s.cfg.kMax v = .ok r ∧ exec (.process f) s = .next t ∧
      t.foutSamples = .ok r.out ∧ (∀ a, t.ramContents a = s.ramContents a) ∧
      t = { s with
        cons := { s.cons with
          fout := t.cons.fout, emitIdx := 0#10, state := codeEmitting, outData := 0xAA#8, outValid := true }
        pipe := { s.pipe with x := t.pipe.x, cosp := t.pipe.cosp, sinp := t.pipe.sinp, y := t.pipe.y } }

/-- R118: in EMITTING the row at `emit_idx` emits byte(emit_idx): 0xAA at 0, the low byte of FOUT[(e−1) div 2] at an odd index
e and its high byte at an even one, 0xBB at 513. The index moves on, with byte(emit_idx + 1) in `out_data` (R120), and after 513 CONS
waits again with no byte offered. Nothing else changes. Where FOUT holds no value at the next index, which no run reaches,
`out_data` keeps its byte (log entry 17). -/
def Obligations.EmitRowsSendTheOutputFrame : Prop :=
  ∀ s : State, s.consOutOfReset = true → s.cons.state = codeEmitting →
    (s.cons.emitIdx = 0#10 → ∃ t, exec .emitSof s = .next t ∧
      (∀ z, readCell s.cons.fout 0 = some z → t.cons.outData = z.extractLsb' 0 8) ∧
      (readCell s.cons.fout 0 = none → t.cons.outData = s.cons.outData) ∧
      t = { s with
        emitted := s.emitted ++ [0xAA#8]
        cons := { s.cons with emitIdx := 1#10, outValid := true, outData := t.cons.outData } }) ∧
    (∀ (d : Byte) (z : Sample), 1 ≤ s.cons.emitIdx.toNat → s.cons.emitIdx.toNat ≤ 512 →
      readCell s.cons.fout ((s.cons.emitIdx.toNat - 1) / 2) = some z →
      d = (if s.cons.emitIdx.toNat % 2 = 1 then z.extractLsb' 0 8 else z.extractLsb' 8 8) →
      ∃ t, exec (.emitData s.cons.emitIdx d) s = .next t ∧
        (s.cons.emitIdx.toNat = 512 → t.cons.outData = 0xBB#8) ∧
        (s.cons.emitIdx.toNat % 2 = 1 → t.cons.outData = z.extractLsb' 8 8) ∧
        (s.cons.emitIdx.toNat % 2 = 0 → s.cons.emitIdx.toNat < 512 →
          (∀ z', readCell s.cons.fout (s.cons.emitIdx.toNat / 2) = some z' → t.cons.outData = z'.extractLsb' 0 8) ∧
          (readCell s.cons.fout (s.cons.emitIdx.toNat / 2) = none → t.cons.outData = s.cons.outData)) ∧
        t = { s with
          emitted := s.emitted ++ [d]
          cons := { s.cons with emitIdx := s.cons.emitIdx + 1#10, outValid := true, outData := t.cons.outData } }) ∧
    (s.cons.emitIdx = 513#10 → ∃ t, exec .emitEof s = .next t ∧ t = { s with
      emitted := s.emitted ++ [0xBB#8]
      cons := { s.cons with emitIdx := 0#10, outValid := false, outData := 0xBB#8, state := codeWaiting } })

/-! ## Reset and faults -/

/-- R134 item 4, R135, R136: RESET is enabled in every state, gives every register the reset value of R19 and R20, leaves every
buffer without a value and leaves the contents of the RAM; afterwards `frames_ready` = 0 and `can_commit` holds. The values of the
sequencer's counters and of the stall counter are the model's (log entries 14 and 15), and so are the released reset line (log
entry 16), the form in which the RAM contents are kept (log entry 11) and the model's own fields (log entries 6 and 18). -/
def Obligations.ResetRestoresEveryRegister : Prop :=
  ∀ s : State, ∃ t, exec .reset s = .next t ∧
    t = { s with
      prod := {
        state := 0b00#2, stageCnt := 0#10, stage := [], hf := 0, bpFlag := false, bpCount := 0#32, cphase := .check
        waitCnt := 0#16, copyIdx := 0#9, hfGray := 0, tfSync := List.replicate s.cfg.syncStages 0 }
      cons := {
        state := 0b00#2, tf := 0, fin := [], fout := [], emitIdx := 0#10, dqActive := false, rdIdx := 0#9
        outValid := false, outData := 0x00#8, tfGray := 0, hfSync := List.replicate s.cfg.syncStages 0 }
      pipe := {
        x := [], cosp := [], sinp := [], y := [], phase := .widen, stageCtr := 0, blockCtr := 0, indexCtr := 0, stall := 0 }
      ram := [], ramKept := t.ramKept
      rst := {
        rstN := true, inSync := List.replicate s.cfg.syncStages true
        procSync := List.replicate s.cfg.syncStages true, lowIn := 0, lowProc := 0 }
      inLog := [], emitted := [], emittedBefore := s.emittedBefore ++ s.emitted
      work := { x := [], cosp := [], sinp := [], y := [] }, fnOut := .none } ∧
    (rising s.ram = true → ∀ a, t.ramContents a = s.ramContents a) ∧
    (s.cfg.legal = true → t.hv = 0 ∧ t.tv = 0 ∧ t.framesReady = 0 ∧ t.canCommit = true)

/-- R134 items 1 to 3 and R126 item 1: `rst_n` falling puts every register at its reset value at once, as RESET does, `in_ready` and
`out_valid` at 0, every flop of both reset synchronisers at 0 and the counts of the edges since the fall at 0; while it is 0 an
edge only counts, a `clk_in` edge in `lowIn`, a `clk_proc` edge in `lowProc`, coinciding edges in both, and the flops stay; it may
rise after SYNC_STAGES + 1 edges of each clock and not before, which leaves the flops; and then a domain leaves reset at the
SYNC_STAGES-th edge of its clock. A level that the line already has changes nothing. The two counts are the model's own, and they,
the refusal of an earlier rise, which R134 calls undefined, and the number of the edge at which a domain leaves reset are log entry
16 (DEDUCED). -/
def Obligations.ResetLineHoldsAndReleases : Prop :=
  (∀ (s : State) (rest : List Event), s.cfg.legal = true → s.inbox = .rstN false :: rest → s.rst.rstN = true →
    ∃ t u, step s = .next t ∧ exec .reset { s with inbox := rest } = .next u ∧
      t = { u with rst := {
        rstN := false, inSync := List.replicate s.cfg.syncStages false
        procSync := List.replicate s.cfg.syncStages false, lowIn := 0, lowProc := 0 } } ∧
      t.prod = Producer.reset s.cfg ∧ t.cons = Consumer.reset s.cfg ∧ t.inReady = false ∧ t.cons.outValid = false) ∧
  (∀ (s : State) (rest : List Event), s.cfg.legal = true → s.rst.rstN = false →
    (∀ v d, s.inbox = .clkIn v d :: rest →
      step s = .next { s with rst := { s.rst with lowIn := s.rst.lowIn + 1 }, inbox := rest }) ∧
    (∀ r, s.inbox = .clkProc r :: rest →
      step s = .next { s with rst := { s.rst with lowProc := s.rst.lowProc + 1 }, inbox := rest }) ∧
    (∀ v d r h k, s.inbox = .clkBoth v d r h k :: rest →
      step s = .next { s with
        rst := { s.rst with lowIn := s.rst.lowIn + 1, lowProc := s.rst.lowProc + 1 }, inbox := rest })) ∧
  (∀ (s : State) (rest : List Event), s.cfg.legal = true → s.inbox = .rstN s.rst.rstN :: rest →
    step s = .next { s with inbox := rest }) ∧
  (∀ (s : State) (rest : List Event), s.cfg.legal = true → s.inbox = .rstN true :: rest → s.rst.rstN = false →
    (s.cfg.syncStages + 1 ≤ s.rst.lowIn ∧ s.cfg.syncStages + 1 ≤ s.rst.lowProc →
      step s = .next { s with rst := { s.rst with rstN := true }, inbox := rest }) ∧
    (s.rst.lowIn ≤ s.cfg.syncStages ∨ s.rst.lowProc ≤ s.cfg.syncStages → step s = .refused .shortReset)) ∧
  (∀ (s : State) (evs rest : List Event), s.cfg.legal = true → s.rst.rstN = true →
    s.rst.inSync = List.replicate s.cfg.syncStages false → evs.length ≤ s.cfg.syncStages → allClkIn evs →
    ∃ t, Sys2Proof.core.run evs.length { s with inbox := evs ++ rest } = .next t ∧
      t.prodOutOfReset = decide (evs.length = s.cfg.syncStages) ∧
      t = { s with rst := { s.rst with inSync := t.rst.inSync }, inbox := rest }) ∧
  (∀ (s : State) (evs rest : List Event), s.cfg.legal = true → s.rst.rstN = true →
    s.rst.procSync = List.replicate s.cfg.syncStages false → evs.length ≤ s.cfg.syncStages → allClkProc evs →
    ∃ t, Sys2Proof.core.run evs.length { s with inbox := evs ++ rest } = .next t ∧
      t.consOutOfReset = decide (evs.length = s.cfg.syncStages) ∧
      t = { s with rst := { s.rst with procSync := t.rst.procSync }, inbox := rest })

/-- R123: the conditions that the rules prove unreachable, and the fault each one gives. TrigNonFinite, NonFinite, RomAddress and
NarrowRange stand with their rows. Which operation raises RingOverrun is log entry 20 (DEDUCED). -/
def Obligations.UnreachableConditionsFault : Prop :=
  ∀ (st c b : BitVec 1) (e : BitVec 10) (d : Byte) (s : State),
    (s.prod.state = codeUnused → exec (.accept st c d) s = .fault .badStateCode ∧
      exec (.commitOk b d) s = .fault .badStateCode ∧ exec (.commitBp b d) s = .fault .badStateCode) ∧
    (s.cons.state = codeUnused → exec .dequeue s = .fault .badStateCode ∧ exec (.process b) s = .fault .badStateCode ∧
      exec .emitSof s = .fault .badStateCode ∧ exec (.emitData e d) s = .fault .badStateCode ∧
      exec .emitEof s = .fault .badStateCode) ∧
    (s.inReady = true → s.prod.state = st.setWidth 2 → 512 ≤ s.prod.stageCnt.toNat →
      exec (.accept st c d) s = .fault .stageOverflow) ∧
    (s.consOutOfReset = true → s.cons.state = codeEmitting → 513 < s.cons.emitIdx.toNat →
      exec .emitSof s = .fault .emitOverflow ∧ exec (.emitData e d) s = .fault .emitOverflow ∧
      exec .emitEof s = .fault .emitOverflow) ∧
    (s.prodOutOfReset = true → s.prod.state = codeCommit → s.canCommit = false →
      exec (.commitOk b d) s = .fault .ringOverrun) ∧
    (s.consOutOfReset = true → s.cons.state = codeWaiting → s.framesReady = 0 → exec .dequeue s = .fault .ringOverrun) ∧
    (∀ k : BitVec 8, s.framesReady = 0 → exec (.unpack k) s = .fault .ringOverrun) ∧
    (s.prodOutOfReset = true → s.prod.state = codeCommit → s.canCommit = true →
      (∃ i, i < 512 ∧ readCell s.prod.stage i = none) → exec (.commitOk b d) s = .fault .unwrittenRead) ∧
    (s.consOutOfReset = true → s.cons.state = codeWaiting → 1 ≤ s.framesReady →
      (∃ i, i < 512 ∧ readCell s.ram (ramAddr s.cfg s.cons.tf i) = none) → exec .dequeue s = .fault .unwrittenRead) ∧
    (s.consOutOfReset = true → s.cons.state = codeProcessing →
      (∃ i, i < 512 ∧ readCell s.cons.fin i = none) → exec (.process b) s = .fault .unwrittenRead) ∧
    (s.consOutOfReset = true → s.cons.state = codeEmitting → s.cons.emitIdx = e → 1 ≤ e.toNat → e.toNat ≤ 512 →
      readCell s.cons.fout ((e.toNat - 1) / 2) = none → exec (.emitData e d) s = .fault .unwrittenRead)

/-! ## Binary32 -/

/-- R10: fadd and fsub are the exact sum and difference rounded once to the nearest word, ties to even; an exact zero is +0.0
unless both terms are negative; fneg flips bit 31 only and fabs clears it only. Values are in units of 2^-149. That the model stops
on a NaN, an infinity or a result at or beyond the overflow threshold 2^128 − 2^103, where R10 names no stop, is log entry 25 (with
R61 and R123). -/
def Obligations.AdditionIsCorrectlyRounded : Prop :=
  (∀ (a : F32) (i : Nat), i < 32 → (fneg a).getLsbD i = (a.getLsbD i != decide (i = 31)) ∧
    (fabs a).getLsbD i = (a.getLsbD i && decide (i ≠ 31))) ∧
  (∀ a b : F32, (finite a && finite b) = false → fadd a b = .error .nonFinite ∧ fsub a b = .error .nonFinite) ∧
  (∀ a b : F32, finite a = true → finite b = true →
    ((∃ w, fadd a b = .ok w) ↔ (fvalue a + fvalue b).natAbs < 2 ^ 277 - 2 ^ 252) ∧
    ∀ w, fadd a b = .ok w → finite w = true ∧
      (∀ u, finite u = true →
        (fvalue w - (fvalue a + fvalue b)).natAbs ≤ (fvalue u - (fvalue a + fvalue b)).natAbs) ∧
      (∀ u, finite u = true → fvalue u ≠ fvalue w →
        (fvalue w - (fvalue a + fvalue b)).natAbs = (fvalue u - (fvalue a + fvalue b)).natAbs → w.getLsbD 0 = false) ∧
      (fvalue a + fvalue b = 0 → w = if fsign a && fsign b then 0x80000000#32 else 0x00000000#32)) ∧
  (∀ a b : F32, finite a = true → finite b = true →
    ((∃ w, fsub a b = .ok w) ↔ (fvalue a - fvalue b).natAbs < 2 ^ 277 - 2 ^ 252) ∧
    ∀ w, fsub a b = .ok w → finite w = true ∧
      (∀ u, finite u = true →
        (fvalue w - (fvalue a - fvalue b)).natAbs ≤ (fvalue u - (fvalue a - fvalue b)).natAbs) ∧
      (∀ u, finite u = true → fvalue u ≠ fvalue w →
        (fvalue w - (fvalue a - fvalue b)).natAbs = (fvalue u - (fvalue a - fvalue b)).natAbs → w.getLsbD 0 = false) ∧
      (fvalue a - fvalue b = 0 → w = if fsign a && !fsign b then 0x80000000#32 else 0x00000000#32))

/-- R10: fmul is the exact product rounded once to the nearest word, ties to even, with the sign of the product. That the model
stops on a NaN, an infinity or a product beyond the finite range is log entry 25 (with R61 and R123). -/
def Obligations.MultiplicationIsCorrectlyRounded : Prop :=
  (∀ a b : F32, (finite a && finite b) = false → fmul a b = .error .nonFinite) ∧
  ∀ a b : F32, finite a = true → finite b = true →
    ((∃ w, fmul a b = .ok w) ↔ (fvalue a * fvalue b).natAbs < (2 ^ 277 - 2 ^ 252) * 2 ^ 149) ∧
    ∀ w, fmul a b = .ok w → finite w = true ∧ fsign w = (fsign a != fsign b) ∧
      (∀ u, finite u = true →
        (fvalue w * 2 ^ 149 - fvalue a * fvalue b).natAbs ≤ (fvalue u * 2 ^ 149 - fvalue a * fvalue b).natAbs) ∧
      (∀ u, finite u = true → fvalue u ≠ fvalue w →
        (fvalue w * 2 ^ 149 - fvalue a * fvalue b).natAbs = (fvalue u * 2 ^ 149 - fvalue a * fvalue b).natAbs →
          w.getLsbD 0 = false)

/-- R10: fdiv by a nonzero divisor is the exact quotient rounded once to the nearest word, ties to even, with the sign of the
quotient. That the model stops on a NaN, an infinity, a zero divisor or a quotient beyond the finite range is log entry 25 (with
R61, R123 and R124). -/
def Obligations.DivisionIsCorrectlyRounded : Prop :=
  (∀ a b : F32, (finite a && finite b) = false ∨ fvalue b = 0 → fdiv a b = .error .nonFinite) ∧
  ∀ a b : F32, finite a = true → finite b = true → fvalue b ≠ 0 →
    ((∃ w, fdiv a b = .ok w) ↔ (fvalue a).natAbs * 2 ^ 149 < (2 ^ 277 - 2 ^ 252) * (fvalue b).natAbs) ∧
    ∀ w, fdiv a b = .ok w → finite w = true ∧ fsign w = (fsign a != fsign b) ∧
      (∀ u, finite u = true →
        (fvalue w * fvalue b - fvalue a * 2 ^ 149).natAbs ≤ (fvalue u * fvalue b - fvalue a * 2 ^ 149).natAbs) ∧
      (∀ u, finite u = true → fvalue u ≠ fvalue w →
        (fvalue w * fvalue b - fvalue a * 2 ^ 149).natAbs = (fvalue u * fvalue b - fvalue a * 2 ^ 149).natAbs →
          w.getLsbD 0 = false)

/-! ## Invariants of every step -/

/-- R24, R30 and the model's form of its stores (log entry 11): every step keeps every store in its canonical form, with the
RAM inside 0 … CAP−1. -/
def Obligations.StoresStayCanonical : Prop :=
  ∀ s t : State, StoresCanonical s → step s = .next t → StoresCanonical t

/-- R135: every instance meets the four invariants right after reset, the default one among them. -/
def Obligations.ResetMeetsTheInvariants : Prop :=
  (∀ p : Params, p.legal = true → StoresCanonical (State.resetOf p) ∧ ControlInv (State.resetOf p) ∧
    RingInv (State.resetOf p) ∧ StreamInv (State.resetOf p)) ∧
  StoresCanonical State.reset ∧ ControlInv State.reset ∧ RingInv State.reset ∧ StreamInv State.reset

/-- Every step, of both levels, keeps the control registers legal: the code 0b11 is never entered (R18), `stage_cnt` and `emit_idx`
stay in their ranges (R61), `stage_cnt` fits the producer's state (R108, R109) and `emit_idx` the consumer's (R117, R118), and
`out_valid` is 1 exactly in EMITTING (R49, R120). -/
def Obligations.ControlRegistersStayLegal : Prop :=
  ∀ s t : State, ControlInv s → step s = .next t → ControlInv t

/-- R103 points 1 and 2 through the registers of the crossing (R99): every step, of both levels and in every order, keeps the ring
invariant: TV ≤ T ≤ HV ≤ H and H − TV ≤ F − 1, with every code in flight the code of a pointer value already held, in order. -/
def Obligations.RingInvariantIsKept : Prop :=
  ∀ s t : State, RingInv s → step s = .next t → RingInv t

/-- R13, R103, R104, R112, R113, R119, R120: every step, of both levels and in every mix of them, keeps the stream invariant. So at
either level the ring holds the committed frames, a copy in progress has moved what its index says, what has been emitted is what
the filtered frames give, and in EMITTING `out_data` is byte(emit_idx). The granularity of the sequencer, in which the invariant
says how far PROCESSING is, is the model's (log entry 14). -/
def Obligations.StreamInvariantIsKept : Prop :=
  ∀ s t : State, StreamInv s → step s = .next t → StreamInv t

/-- R96 point 1: where the stream invariant holds, what has been emitted since reset is a prefix of OUT(0) ++ … ++ OUT(J − 1),
one output frame for each whole accepted frame and none for the staged remainder. -/
def Obligations.EmittedBytesFollowTheStreamEquation : Prop :=
  ∀ s : State, StreamInv s →
    ∃ outs : List (List Byte), outs.length = s.inLog.length / 512 ∧
      (∀ j out, outs[j]? = some out → isOutput s.cfg (frameAt s.inLog j) out ∧ out.length = 514) ∧
      s.emitted <+: outs.flatten

/-- R123 ("A proof obligation of any model is that it is never reached"), R59, R124: where the stream invariant holds, no turn of
an agent, no reset, and no edge of a clock stops: it neither faults nor is refused. (A call by name may fault, and `rst_n` may rise
too early, log entry 16: neither is among these.) -/
def Obligations.NoTurnStops : Prop :=
  ∀ (s : State) (ev : Event) (rest : List Event), s.cfg.legal = true → s.inbox = ev :: rest →
    ev.isTurn = true ∨ ev.isEdge = true → StreamInv s → completes (step s)

/-- R6, R29, R110, R111: no step changes a parameter of the instance, and `bp_count` changes only when a frame meets backpressure
for the first time, then by one mod 2^32, or at a reset. -/
def Obligations.BackpressureCounterMovesOnlyAtAFailedCheck : Prop :=
  ∀ s t : State, step s = .next t → t.cfg = s.cfg ∧
    (t.prod.bpCount = s.prod.bpCount ∨ resetNext s ∨
      (t.prod.bpCount = s.prod.bpCount + 1#32 ∧ s.prod.state = codeCommit ∧ s.prod.bpFlag = false ∧
        t.prod.bpFlag = true ∧ s.canCommit = false))

/-- R110, R112: PROD leaves COMMIT only by publishing its frame or by a reset, and takes no byte there. -/
def Obligations.CommitIsLeftOnlyByPublication : Prop :=
  ∀ s t : State, s.prod.state = codeCommit → step s = .next t → resetNext s ∨
    (t.inLog = s.inLog ∧
      (t.prod.state = codeCommit ∨
        (t.prod.state = codeIdle ∧ t.prod.hf = (s.prod.hf + 1) % s.slots ∧ t.prod.stageCnt = 0#10 ∧
          t.prod.bpFlag = false)))

/-! ## The cycle level -/

/-- R49 items 1, 4 and 5, R108, R120: a byte is taken at exactly the `clk_in` edges with `in_valid` and `in_ready`, and such an edge
is the ACCEPT of PROD's turn; a byte is sent at exactly the `clk_proc` edges with `out_valid` and `out_ready`, and such an edge is
the EMIT row of CONS's turn where `out_data` is byte(emit_idx); a byte that is offered and not sent stays offered, unchanged. The
registers of the crossing, which every edge moves, are the only difference between the edge and the turn. An edge that transfers
nothing and does no other work moves those registers and nothing else: a `clk_in` edge before COMMIT with `in_valid` at 0 (R113), a
`clk_proc` edge in WAITING with no dequeue under way and no frame ready, or in EMITTING with no byte sent (R120, "Every other edge is
a stutter"). An edge at which CONS waits for the RAM or the pipeline moves its stall counter too, which is the model's own (log
entry 14). -/
def Obligations.HandshakesTransferExactlyOnce : Prop :=
  (∀ (s t : State) (v : Bool) (d : Byte) (rest : List Event), s.inbox = .clkIn v d :: rest → step s = .next t →
    t.inLog = if v && s.inReady then s.inLog ++ [d] else s.inLog) ∧
  (∀ (s t : State) (r : Bool) (rest : List Event), ControlInv s → s.inbox = .clkProc r :: rest → step s = .next t →
    (s.consOutOfReset = true → s.cons.outValid = true → r = true → t.emitted = s.emitted ++ [s.cons.outData]) ∧
    (s.consOutOfReset = false ∨ s.cons.outValid = false ∨ r = false → t.emitted = s.emitted ∧
      (s.cons.outValid = true → t.cons.outValid = true ∧ t.cons.outData = s.cons.outData))) ∧
  (∀ (s : State) (d : Byte) (rest : List Event), s.cfg.legal = true → s.inReady = true → s.prod.stageCnt.toNat < 512 →
    ∃ t u, step { s with inbox := .clkIn true d :: rest } = .next t ∧
      step { s with inbox := .prod true d :: rest } = .next u ∧ u.inLog = s.inLog ++ [d] ∧
      t = { u with prod := { u.prod with hfGray := t.prod.hfGray, tfSync := t.prod.tfSync } }) ∧
  (∀ (s : State) (rest : List Event), s.cfg.legal = true → s.consOutOfReset = true → s.cons.state = codeEmitting →
    s.cons.outValid = true → s.outByte s.cons.emitIdx.toNat = .ok s.cons.outData →
    (s.cons.emitIdx.toNat < 513 → ∃ b, s.outByte (s.cons.emitIdx.toNat + 1) = .ok b) →
    ∃ t u, step { s with inbox := .clkProc true :: rest } = .next t ∧
      step { s with inbox := .cons true :: rest } = .next u ∧ u.emitted = s.emitted ++ [s.cons.outData] ∧
      t = { u with cons := { u.cons with tfGray := t.cons.tfGray, hfSync := t.cons.hfSync } }) ∧
  (∀ (s : State) (d : Byte) (rest : List Event), s.cfg.legal = true → s.inbox = .clkIn false d :: rest →
    s.inReady = true → ∃ t, step s = .next t ∧
      t = { s with prod := { s.prod with hfGray := t.prod.hfGray, tfSync := t.prod.tfSync }, inbox := rest }) ∧
  (∀ (s : State) (r : Bool) (rest : List Event), s.cfg.legal = true → s.inbox = .clkProc r :: rest →
    s.consOutOfReset = true →
    ((s.cons.state = codeWaiting ∧ s.cons.dqActive = false ∧ s.framesReady = 0) ∨
      (s.cons.state = codeEmitting ∧ (s.cons.outValid = false ∨ r = false)) → ∃ t, step s = .next t ∧
        t = { s with cons := { s.cons with tfGray := t.cons.tfGray, hfSync := t.cons.hfSync }, inbox := rest }) ∧
    ((s.cons.state = codeWaiting ∧ s.cons.dqActive = true) ∨ s.cons.state = codeProcessing → 0 < s.pipe.stall →
      ∃ t, step s = .next t ∧
        t = { s with
          cons := { s.cons with tfGray := t.cons.tfGray, hfSync := t.cons.hfSync }
          pipe := { s.pipe with stall := s.pipe.stall - 1 }
          inbox := rest }))

/-- R15, R99, R126 item 3: an edge of one clock changes nothing of the other domain: a `clk_in` edge none of CONS's registers,
buffers and output, a `clk_proc` edge none of PROD's, nor the RAM. In its own domain, out of reset, it makes the assignments of R99
from the values before it, whatever else it does: `hf_gray` the code of `hf`, the first flop of `tf_sync` `tf_gray` and each further
flop the one before it; and `tf_gray` and `hf_sync` likewise. In reset it moves no register of either domain. Edges that coincide are the two edges from the state before them,
each in its own domain; the first flop of each chain takes the old code of the register it samples, or its new one if it resolves
so (the choice is the event's, log entry 22). -/
def Obligations.EachClockMovesItsOwnDomain : Prop :=
  (∀ (s t : State) (v : Bool) (d : Byte) (rest : List Event), s.inbox = .clkIn v d :: rest → step s = .next t →
    t.cons = s.cons ∧ t.pipe = s.pipe ∧ t.emitted = s.emitted ∧ t.rst.procSync = s.rst.procSync ∧
    (s.prodOutOfReset = true → t.prod.hfGray = grayOf s.prod.hf ∧
      (s.prod.tfSync ≠ [] → t.prod.tfSync = s.cons.tfGray :: s.prod.tfSync.dropLast)) ∧
    (s.prodOutOfReset = false → t.prod = s.prod)) ∧
  (∀ (s t : State) (r : Bool) (rest : List Event), s.inbox = .clkProc r :: rest → step s = .next t →
    t.prod = s.prod ∧ t.ram = s.ram ∧ t.ramKept = s.ramKept ∧ t.inLog = s.inLog ∧ t.rst.inSync = s.rst.inSync ∧
    (s.consOutOfReset = true → t.cons.tfGray = grayOf s.cons.tf ∧
      (s.cons.hfSync ≠ [] → t.cons.hfSync = s.prod.hfGray :: s.cons.hfSync.dropLast)) ∧
    (s.consOutOfReset = false → t.cons = s.cons ∧ t.pipe = s.pipe)) ∧
  (∀ (s a b : State) (v : Bool) (d : Byte) (r newHead newTail : Bool) (rest : List Event),
    step { s with inbox := .clkIn v d :: rest } = .next a → step { s with inbox := .clkProc r :: rest } = .next b →
    ∃ t, step { s with inbox := .clkBoth v d r newHead newTail :: rest } = .next t ∧
      t = { a with
        prod := { a.prod with tfSync := t.prod.tfSync }
        cons := { b.cons with hfSync := t.cons.hfSync }
        pipe := b.pipe, emitted := b.emitted, freeIdx := b.freeIdx
        rst := { a.rst with procSync := b.rst.procSync, lowProc := b.rst.lowProc } } ∧
      (s.prodOutOfReset = true → s.prod.tfSync ≠ [] → t.prod.tfSync =
        (if newTail then b.cons.tfGray else s.cons.tfGray) :: s.prod.tfSync.dropLast) ∧
      (s.consOutOfReset = true → s.cons.hfSync ≠ [] → t.cons.hfSync =
        (if newHead then a.prod.hfGray else s.prod.hfGray) :: s.cons.hfSync.dropLast) ∧
      (s.prodOutOfReset = false → t.prod.tfSync = s.prod.tfSync) ∧
      (s.consOutOfReset = false → t.cons.hfSync = s.cons.hfSync))

/-- R114: with `in_valid` held at 1 and no backpressure the frame that PROD begins takes 1025 `clk_in` edges, 512 that accept a byte each,
one CHECK and 512 COPY, and `in_ready` is 0 before the last 513 of them; after them the frame is in its slot and published. R113,
R43, R110: a passed CHECK followed by its 512 COPY edges is one COMMIT_OK. A failed CHECK is one COMMIT_BP, and after it
PROD waits with `wait_cnt` running down, so that the next CHECK is RETRY_WAIT + 1 edges later. Both hold whatever SRC drives
meanwhile; the registers of the crossing, which every edge moves, may differ, and the sub-phase and `wait_cnt` of a wait. -/
def Obligations.CommitCopyIsOneCommit : Prop :=
  (∀ (s : State) (frame : List Byte) (evs rest : List Event) (v : BitVec 1) (x : Byte), s.cfg.legal = true →
    s.prodOutOfReset = true → s.prod.state = codeCommit → s.prod.cphase = .check → s.canCommit = true →
    readRun s.prod.stage 0 512 = .ok frame → evs.length = 513 → allClkIn evs →
    ∃ t u, Sys2Proof.core.run 513 { s with inbox := evs ++ rest } = .next t ∧ exec (.commitOk v x) s = .next u ∧
      t.ram = u.ram ∧
      t = { u with
        prod := { u.prod with hfGray := t.prod.hfGray, tfSync := t.prod.tfSync }
        inbox := rest }) ∧
  (∀ (s : State) (evs rest : List Event) (v : BitVec 1) (x : Byte), s.cfg.legal = true → s.prodOutOfReset = true →
    s.prod.state = codeCommit → s.prod.cphase = .check → s.canCommit = false →
    1 ≤ evs.length → evs.length ≤ s.cfg.retryWait + 1 → allClkIn evs →
    ∃ t u, Sys2Proof.core.run evs.length { s with inbox := evs ++ rest } = .next t ∧ exec (.commitBp v x) s = .next u ∧
      t.prod.cphase = (if evs.length = s.cfg.retryWait + 1 then .check else .wait) ∧
      (evs.length ≤ s.cfg.retryWait → t.prod.waitCnt.toNat = s.cfg.retryWait - evs.length) ∧
      t = { u with
        prod := { u.prod with
          cphase := t.prod.cphase, waitCnt := t.prod.waitCnt, hfGray := t.prod.hfGray, tfSync := t.prod.tfSync }
        inbox := rest }) ∧
  (∀ (s : State) (d : Nat → Byte) (rest : List Event), s.cfg.legal = true → s.prodOutOfReset = true →
    s.prod.state = codeIdle → s.prod.stageCnt = 0#10 → roomAhead s →
    (∀ n, n ≤ 1025 → ∃ t, Sys2Proof.core.run n { s with inbox := heldInput 1025 d ++ rest } = .next t ∧
      t.inReady = decide (n < 512 ∨ n = 1025) ∧ t.inLog = s.inLog ++ (List.range (min n 512)).map d ∧
      (n = 512 → t.prod.state = codeCommit ∧ t.prod.cphase = .check ∧ t.canCommit = true) ∧
      (513 ≤ n → n < 1025 → t.prod.state = codeCommit ∧ t.prod.cphase = .copy ∧ t.prod.copyIdx.toNat = n - 513)) ∧
    ∃ t, Sys2Proof.core.run 1025 { s with inbox := heldInput 1025 d ++ rest } = .next t ∧
      (∀ i, i < 512 → readCell t.ram (ramAddr s.cfg s.prod.hf i) = some (d i)) ∧
      (∀ a, (∀ i, i < 512 → a ≠ ramAddr s.cfg s.prod.hf i) → t.ramContents a = s.ramContents a) ∧
      t = { s with
        ram := t.ram
        inLog := s.inLog ++ (List.range 512).map d
        prod := { s.prod with
          stage := t.prod.stage, hf := (s.prod.hf + 1) % s.slots, bpFlag := false, cphase := .check
          copyIdx := t.prod.copyIdx, hfGray := t.prod.hfGray, tfSync := t.prod.tfSync }
        inbox := rest })

/-- R120: the edge that starts a dequeue and the edges of its 512 reads are one DEQUEUE, after a finite number of edges that the
read latency decides (I10; log entry 14), whatever SINK drives meanwhile. The registers of the crossing, the stall counter and the
counter of free values may differ, and FIN as a store, whose 512 bytes are the frame in both. -/
def Obligations.DequeueCopyIsOneDequeue : Prop :=
  ∀ (s : State) (frame : List Byte), s.cfg.legal = true → s.consOutOfReset = true → s.cons.state = codeWaiting →
    s.cons.dqActive = false → 1 ≤ s.framesReady → s.tailFrameBytes = .ok frame →
    ∃ n, ∀ evs rest : List Event, evs.length = n → allClkProc evs →
      ∃ t u, Sys2Proof.core.run n { s with inbox := evs ++ rest } = .next t ∧ exec .dequeue s = .next u ∧
        readRun t.cons.fin 0 512 = .ok frame ∧
        t = { u with
          cons := { u.cons with fin := t.cons.fin, tfGray := t.cons.tfGray, hfSync := t.cons.hfSync }
          pipe := { u.pipe with stall := t.pipe.stall }
          freeIdx := t.freeIdx
          inbox := rest }

/-- R120, R95 (the order of R78, R84 and R90): started on a frame in FIN, the sequencer's 2305 operations leave FOUT as
`filterFrame` gives it and CONS in EMITTING with 0xAA offered; and the `clk_proc` edges of PROCESSING are one PROCESS, after a finite
number of edges that the schedule decides (I8), whatever SINK drives meanwhile. The registers of the crossing, the stall counter and
the counter of free values may differ, and the buffers as stores, whose elements are the same. The granularity of an operation is
the model's (log entry 14). -/
def Obligations.SequencerComputesTheFilteredFrame : Prop :=
  (∀ (s : State) (v : List Sample), s.cons.state = codeProcessing → s.pipe.phase = .widen →
    s.pipe.stageCtr = 0 → s.pipe.blockCtr = 0 → s.pipe.indexCtr = 0 → s.finSamples = .ok v →
    ∃ r t, filterFrame s.cfg.kMin s.cfg.kMax v = .ok r ∧ pipeOps 2305 s = .ok t ∧ t.foutSamples = .ok r.out ∧
      t = { s with
        cons := { s.cons with
          fout := t.cons.fout, emitIdx := 0#10, outData := 0xAA#8, outValid := true, state := codeEmitting }
        pipe := t.pipe }) ∧
  (∀ (s : State) (v : List Sample) (f : BitVec 1), s.cfg.legal = true → s.consOutOfReset = true →
    s.cons.state = codeProcessing → s.pipe.phase = .widen →
    s.pipe.stageCtr = 0 → s.pipe.blockCtr = 0 → s.pipe.indexCtr = 0 → s.finSamples = .ok v →
    ∃ n, ∀ evs rest : List Event, evs.length = n → allClkProc evs →
      ∃ t u, Sys2Proof.core.run n { s with inbox := evs ++ rest } = .next t ∧ exec (.process f) s = .next u ∧
        (∀ i, i < 256 → readCell t.cons.fout i = readCell u.cons.fout i ∧ readCell t.pipe.x i = readCell u.pipe.x i ∧
          readCell t.pipe.cosp i = readCell u.pipe.cosp i ∧ readCell t.pipe.sinp i = readCell u.pipe.sinp i ∧
          readCell t.pipe.y i = readCell u.pipe.y i) ∧
        t = { u with
          cons := { u.cons with fout := t.cons.fout, tfGray := t.cons.tfGray, hfSync := t.cons.hfSync }
          pipe := { u.pipe with
            x := t.pipe.x, cosp := t.pipe.cosp, sinp := t.pipe.sinp, y := t.pipe.y, stall := t.pipe.stall }
          freeIdx := t.freeIdx
          inbox := rest })

end
end

