-- ==== Sys2Proof/Laws/Float.lean ====
section
/-! SUPPORT. What the one rounding of the model gives: the value, the sign and the distance of `roundUnits`, and the bits of a
word. A proof about an operation of R10 cites these and does not unfold the rounding. -/

namespace Sys2Proof.Machine

/-! ## The fields of a word -/

theorem fexp_lt (a : F32) : fexp a < 256 := Nat.mod_lt _ (by decide)

theorem ffrac_lt (a : F32) : ffrac a < 2 ^ 23 := Nat.mod_lt _ (by decide)

theorem fexp_eq_extract (a : F32) : fexp a = (a.extractLsb' 23 8).toNat := by
  simp [fexp, BitVec.extractLsb'_toNat]

theorem ffrac_eq_extract (a : F32) : ffrac a = (a.extractLsb' 0 23).toNat := by
  simp [ffrac, BitVec.extractLsb'_toNat]

@[simp] theorem fsign_fneg (a : F32) : fsign (fneg a) = !fsign a := by
  simp only [fsign, fneg, BitVec.getLsbD_xor]
  rw [show BitVec.getLsbD 0x80000000#32 31 = true from by decide]
  simp

@[simp] theorem fexp_fneg (a : F32) : fexp (fneg a) = fexp a := by
  rw [fexp_eq_extract, fexp_eq_extract, fneg, BitVec.extractLsb'_xor]
  simp

@[simp] theorem ffrac_fneg (a : F32) : ffrac (fneg a) = ffrac a := by
  rw [ffrac_eq_extract, ffrac_eq_extract, fneg, BitVec.extractLsb'_xor]
  simp

@[simp] theorem finite_fneg (a : F32) : finite (fneg a) = finite a := by simp [finite]

@[simp] theorem funits_fneg (a : F32) : funits (fneg a) = funits a := by simp [funits]

/-- `fneg` negates the value. -/
@[simp] theorem fvalue_fneg (a : F32) : fvalue (fneg a) = -fvalue a := by
  simp only [fvalue, fsign_fneg, funits_fneg]; cases fsign a <;> simp

@[simp] theorem fneg_fneg (a : F32) : fneg (fneg a) = a := by simp [fneg]

@[simp] theorem fsign_fabs (a : F32) : fsign (fabs a) = false := by
  simp only [fsign, fabs, BitVec.getLsbD_and]
  rw [show BitVec.getLsbD 0x7FFFFFFF#32 31 = false from by decide]
  simp

@[simp] theorem fexp_fabs (a : F32) : fexp (fabs a) = fexp a := by
  rw [fexp_eq_extract, fexp_eq_extract, fabs, BitVec.extractLsb'_and]
  rw [show BitVec.extractLsb' 23 8 0x7FFFFFFF#32 = BitVec.allOnes 8 from by decide, BitVec.and_allOnes]

@[simp] theorem ffrac_fabs (a : F32) : ffrac (fabs a) = ffrac a := by
  rw [ffrac_eq_extract, ffrac_eq_extract, fabs, BitVec.extractLsb'_and]
  rw [show BitVec.extractLsb' 0 23 0x7FFFFFFF#32 = BitVec.allOnes 23 from by decide, BitVec.and_allOnes]

@[simp] theorem finite_fabs (a : F32) : finite (fabs a) = finite a := by simp [finite]

@[simp] theorem funits_fabs (a : F32) : funits (fabs a) = funits a := by simp [funits]

theorem fvalue_natAbs (a : F32) : (fvalue a).natAbs = funits a := by
  unfold fvalue; split <;> simp

/-! ## The rounding -/

/-- The rounded quotient is within half a unit of the last place. -/
theorem roundShift_near (m p : Nat) :
    2 * m ≤ 2 * (roundShift m p * 2 ^ p) + 2 ^ p ∧ 2 * (roundShift m p * 2 ^ p) ≤ 2 * m + 2 ^ p := by
  have hpos := Nat.two_pow_pos p
  have hlt := Nat.mod_lt m hpos
  have hdiv : m = m / 2 ^ p * 2 ^ p + m % 2 ^ p := by rw [Nat.mul_comm]; exact (Nat.div_add_mod m (2 ^ p)).symm
  unfold roundShift
  rw [Nat.shiftRight_eq_div_pow]
  split <;> constructor <;> (try rw [Nat.add_mul]) <;> omega

/-- At most 2^24, with the position of `roundPos`. -/
theorem roundShift_le (m k : Nat) : roundShift m (roundPos m k) ≤ 2 ^ 24 := by
  have h : m >>> roundPos m k < 2 ^ 24 := by
    rw [Nat.shiftRight_eq_div_pow, Nat.div_lt_iff_lt_mul (Nat.two_pow_pos _), ← pow_add]
    calc m < 2 ^ (m.log2 + 1) := Nat.lt_log2_self
      _ ≤ 2 ^ (24 + roundPos m k) := Nat.pow_le_pow_right (by decide) (by unfold roundPos; omega)
  unfold roundShift
  split <;> omega

/-- Above the lowest position the significand is normal. -/
theorem le_roundShift (m k : Nat) (h : k < roundPos m k) : 2 ^ 23 ≤ roundShift m (roundPos m k) := by
  have hp : roundPos m k = m.log2 - 23 := by unfold roundPos at *; omega
  have hm : m ≠ 0 := by
    rintro rfl
    have : Nat.log2 0 = 0 := by decide
    omega
  have h1 : 2 ^ 23 ≤ m >>> roundPos m k := by
    rw [Nat.shiftRight_eq_div_pow, Nat.le_div_iff_mul_le (Nat.two_pow_pos _), ← pow_add]
    calc 2 ^ (23 + roundPos m k) ≤ 2 ^ m.log2 := Nat.pow_le_pow_right (by decide) (by omega)
      _ ≤ m := Nat.log2_self_le hm
  unfold roundShift
  split <;> omega

/-- What a finite magnitude word stands for: a significand below its exponent. -/
theorem funits_ofNat (neg : Bool) (q e : Nat) (hq : q ≤ 2 ^ 24) (he : 0 < e → 2 ^ 23 ≤ q)
    (hm : q + e * 2 ^ 23 < 0x7F800000) :
    finite (BitVec.ofNat 32 (if neg then 0x80000000 + (q + e * 2 ^ 23) else q + e * 2 ^ 23)) = true ∧
      funits (BitVec.ofNat 32 (if neg then 0x80000000 + (q + e * 2 ^ 23) else q + e * 2 ^ 23)) = q * 2 ^ e ∧
      fsign (BitVec.ofNat 32 (if neg then 0x80000000 + (q + e * 2 ^ 23) else q + e * 2 ^ 23)) = neg := by
  generalize hw : BitVec.ofNat 32 (if neg then 0x80000000 + (q + e * 2 ^ 23) else q + e * 2 ^ 23) = w
  have hn : w.toNat = (if neg then 0x80000000 else 0) + (q + e * 2 ^ 23) := by
    rw [← hw]; cases neg <;> simp <;> omega
  have hexp : fexp w = (q + e * 2 ^ 23) / 2 ^ 23 := by
    unfold fexp; rw [hn, Nat.shiftRight_eq_div_pow]; cases neg <;> simp <;> omega
  have hfr : ffrac w = q % 2 ^ 23 := by
    unfold ffrac; rw [hn]; cases neg
    · simp
    · simp; omega
  refine ⟨?_, ?_, ?_⟩
  · simp only [finite, bne_iff_ne, ne_eq]; rw [hexp]; omega
  · unfold funits
    rw [hexp, hfr, Nat.shiftLeft_eq]
    by_cases h0 : q < 2 ^ 23
    · have e0 : e = 0 := by omega
      subst e0
      rw [if_pos (by omega)]; simp; omega
    · rw [if_neg (by omega)]
      by_cases h1 : q = 2 ^ 24
      · subst h1
        rw [show (2 ^ 24 + e * 2 ^ 23) / 2 ^ 23 - 1 = e + 1 by omega, pow_succ]; omega
      · rw [show (q + e * 2 ^ 23) / 2 ^ 23 - 1 = e by omega,
          show q % 2 ^ 23 + 2 ^ 23 = q by omega]
  · have : fsign w = decide (2 ^ 31 ≤ w.toNat) := by
      have h := w.isLt
      rw [fsign, BitVec.getLsbD, Nat.testBit_eq_decide_div_mod_eq]
      congr 1
      rw [eq_iff_iff]
      constructor <;> intro hh <;> omega
    rw [this, hn]; cases neg
    · simp; omega
    · simp

/-- What `roundUnits` answers: a finite word of the sign asked for, whose magnitude is the rounded significand times the unit of
its position; `roundShift_near` says how near it is. -/
theorem roundUnits_ok (neg : Bool) (m k : Nat) (w : F32) (h : roundUnits neg m k = .ok w) :
    finite w = true ∧ fsign w = neg ∧ funits w = roundShift m (roundPos m k) * 2 ^ (roundPos m k - k) := by
  unfold roundUnits at h
  simp only [] at h
  split at h
  · cases h
  · rename_i hlt
    rw [Nat.shiftLeft_eq] at h hlt
    have hw : w = BitVec.ofNat 32 (if neg then 0x80000000 + (roundShift m (roundPos m k) + (roundPos m k - k) * 2 ^ 23)
        else roundShift m (roundPos m k) + (roundPos m k - k) * 2 ^ 23) := by cases h; rfl
    rw [hw]
    obtain ⟨h1, h2, h3⟩ := funits_ofNat neg (roundShift m (roundPos m k)) (roundPos m k - k) (roundShift_le m k)
      (fun hp => le_roundShift m k (by omega)) (by omega)
    exact ⟨h1, h3, h2⟩

/-- `roundUnits` answers whenever the magnitude is below 2^277 units of 2^-149, that is below 2^128, by half a unit of the
last place of the largest finite word. -/
theorem roundUnits_answers (neg : Bool) (m k : Nat) (h : m < 2 ^ (276 + k)) : ∃ w, roundUnits neg m k = .ok w := by
  unfold roundUnits
  simp only []
  rw [Nat.shiftLeft_eq]
  have hp : roundPos m k - k ≤ 252 := by
    unfold roundPos
    by_cases hm : m = 0
    · subst hm
      have : Nat.log2 0 = 0 := by decide
      omega
    · have : m.log2 < 276 + k := (Nat.log2_lt hm).2 h
      omega
  have := roundShift_le m k
  rw [if_neg (by
    have : (roundPos m k - k) * 2 ^ 23 ≤ 252 * 2 ^ 23 := Nat.mul_le_mul_right _ hp
    omega)]
  exact ⟨_, rfl⟩

/-! ## The two checked operations every other is made of -/

theorem fadd_ok (a b w : F32) (h : fadd a b = .ok w) :
    finite a = true ∧ finite b = true ∧ finite w = true ∧
      (fvalue a + fvalue b = 0 → funits w = 0) ∧
      (fvalue a + fvalue b ≠ 0 →
        roundUnits (decide (fvalue a + fvalue b < 0)) (fvalue a + fvalue b).natAbs 0 = .ok w) := by
  unfold fadd at h
  split at h
  · rename_i hf
    rw [Bool.and_eq_true] at hf
    split at h
    · rename_i h0
      refine ⟨hf.1, hf.2, ?_, fun _ => ?_, fun hne => absurd h0 hne⟩ <;>
        (cases h; split <;> rfl)
    · rename_i h0
      exact ⟨hf.1, hf.2, (roundUnits_ok _ _ _ _ h).1, fun hz => absurd hz h0, fun _ => h⟩
  · cases h

theorem fmul_ok (a b w : F32) (h : fmul a b = .ok w) :
    finite a = true ∧ finite b = true ∧
      roundUnits (fsign a != fsign b) (funits a * funits b) 149 = .ok w := by
  unfold fmul at h
  split at h
  · rename_i hf
    rw [Bool.and_eq_true] at hf
    exact ⟨hf.1, hf.2, h⟩
  · cases h

/-- Addition is commutative, bit for bit (R73 relies on it). -/
theorem fadd_comm (a b : F32) : fadd a b = fadd b a := by
  unfold fadd
  rw [Bool.and_comm (finite a), Int.add_comm (fvalue a), Bool.and_comm (fsign a)]

/-- Multiplication is commutative, bit for bit. -/
theorem fmul_comm (a b : F32) : fmul a b = fmul b a := by
  unfold fmul
  rw [Bool.and_comm (finite a), Nat.mul_comm (funits a)]
  cases fsign a <;> cases fsign b <;> rfl

end Sys2Proof.Machine
end

