-- ==== Sys2Proof/Laws/State.lean ====
section
/-! SUPPORT. One lemma per field of State per named update, so that no later proof unfolds a record update. The second part does
the same for the fields of the producer and the consumer that an update writes. -/

namespace Sys2Proof.Machine

@[simp] theorem State.returning_cfg (s : State) (r : FnResult) : (s.returning r).cfg = s.cfg := rfl
@[simp] theorem State.returning_prod (s : State) (r : FnResult) : (s.returning r).prod = s.prod := rfl
@[simp] theorem State.returning_cons (s : State) (r : FnResult) : (s.returning r).cons = s.cons := rfl
@[simp] theorem State.returning_pipe (s : State) (r : FnResult) : (s.returning r).pipe = s.pipe := rfl
@[simp] theorem State.returning_ram (s : State) (r : FnResult) : (s.returning r).ram = s.ram := rfl
@[simp] theorem State.returning_ramKept (s : State) (r : FnResult) : (s.returning r).ramKept = s.ramKept := rfl
@[simp] theorem State.returning_rst (s : State) (r : FnResult) : (s.returning r).rst = s.rst := rfl
@[simp] theorem State.returning_inbox (s : State) (r : FnResult) : (s.returning r).inbox = s.inbox := rfl
@[simp] theorem State.returning_inLog (s : State) (r : FnResult) : (s.returning r).inLog = s.inLog := rfl
@[simp] theorem State.returning_emitted (s : State) (r : FnResult) : (s.returning r).emitted = s.emitted := rfl
@[simp] theorem State.returning_emittedBefore (s : State) (r : FnResult) : (s.returning r).emittedBefore = s.emittedBefore := rfl
@[simp] theorem State.returning_work (s : State) (r : FnResult) : (s.returning r).work = s.work := rfl
@[simp] theorem State.returning_fnOut (s : State) (r : FnResult) : (s.returning r).fnOut = r := rfl
@[simp] theorem State.returning_freeIdx (s : State) (r : FnResult) : (s.returning r).freeIdx = s.freeIdx := rfl

@[simp] theorem State.drawn_cfg (s : State) : (s.drawn).cfg = s.cfg := rfl
@[simp] theorem State.drawn_prod (s : State) : (s.drawn).prod = s.prod := rfl
@[simp] theorem State.drawn_cons (s : State) : (s.drawn).cons = s.cons := rfl
@[simp] theorem State.drawn_pipe (s : State) : (s.drawn).pipe = s.pipe := rfl
@[simp] theorem State.drawn_ram (s : State) : (s.drawn).ram = s.ram := rfl
@[simp] theorem State.drawn_ramKept (s : State) : (s.drawn).ramKept = s.ramKept := rfl
@[simp] theorem State.drawn_rst (s : State) : (s.drawn).rst = s.rst := rfl
@[simp] theorem State.drawn_inbox (s : State) : (s.drawn).inbox = s.inbox := rfl
@[simp] theorem State.drawn_inLog (s : State) : (s.drawn).inLog = s.inLog := rfl
@[simp] theorem State.drawn_emitted (s : State) : (s.drawn).emitted = s.emitted := rfl
@[simp] theorem State.drawn_emittedBefore (s : State) : (s.drawn).emittedBefore = s.emittedBefore := rfl
@[simp] theorem State.drawn_work (s : State) : (s.drawn).work = s.work := rfl
@[simp] theorem State.drawn_fnOut (s : State) : (s.drawn).fnOut = s.fnOut := rfl
@[simp] theorem State.drawn_freeIdx (s : State) : (s.drawn).freeIdx = s.freeIdx + 1 := rfl

@[simp] theorem State.withWork_cfg (s : State) (w : Workspace) : (s.withWork w).cfg = s.cfg := rfl
@[simp] theorem State.withWork_prod (s : State) (w : Workspace) : (s.withWork w).prod = s.prod := rfl
@[simp] theorem State.withWork_cons (s : State) (w : Workspace) : (s.withWork w).cons = s.cons := rfl
@[simp] theorem State.withWork_pipe (s : State) (w : Workspace) : (s.withWork w).pipe = s.pipe := rfl
@[simp] theorem State.withWork_ram (s : State) (w : Workspace) : (s.withWork w).ram = s.ram := rfl
@[simp] theorem State.withWork_ramKept (s : State) (w : Workspace) : (s.withWork w).ramKept = s.ramKept := rfl
@[simp] theorem State.withWork_rst (s : State) (w : Workspace) : (s.withWork w).rst = s.rst := rfl
@[simp] theorem State.withWork_inbox (s : State) (w : Workspace) : (s.withWork w).inbox = s.inbox := rfl
@[simp] theorem State.withWork_inLog (s : State) (w : Workspace) : (s.withWork w).inLog = s.inLog := rfl
@[simp] theorem State.withWork_emitted (s : State) (w : Workspace) : (s.withWork w).emitted = s.emitted := rfl
@[simp] theorem State.withWork_emittedBefore (s : State) (w : Workspace) : (s.withWork w).emittedBefore = s.emittedBefore := rfl
@[simp] theorem State.withWork_work (s : State) (w : Workspace) : (s.withWork w).work = w := rfl
@[simp] theorem State.withWork_fnOut (s : State) (w : Workspace) : (s.withWork w).fnOut = s.fnOut := rfl
@[simp] theorem State.withWork_freeIdx (s : State) (w : Workspace) : (s.withWork w).freeIdx = s.freeIdx := rfl

@[simp] theorem State.headCrossed_cfg (s : State) : (s.headCrossed).cfg = s.cfg := rfl
@[simp] theorem State.headCrossed_prod (s : State) : (s.headCrossed).prod = { s.prod with hfGray := grayOf s.prod.hf } := rfl
@[simp] theorem State.headCrossed_cons (s : State) : (s.headCrossed).cons = { s.cons with hfSync := s.cons.hfSync.map fun _ => grayOf s.prod.hf } := rfl
@[simp] theorem State.headCrossed_pipe (s : State) : (s.headCrossed).pipe = s.pipe := rfl
@[simp] theorem State.headCrossed_ram (s : State) : (s.headCrossed).ram = s.ram := rfl
@[simp] theorem State.headCrossed_ramKept (s : State) : (s.headCrossed).ramKept = s.ramKept := rfl
@[simp] theorem State.headCrossed_rst (s : State) : (s.headCrossed).rst = s.rst := rfl
@[simp] theorem State.headCrossed_inbox (s : State) : (s.headCrossed).inbox = s.inbox := rfl
@[simp] theorem State.headCrossed_inLog (s : State) : (s.headCrossed).inLog = s.inLog := rfl
@[simp] theorem State.headCrossed_emitted (s : State) : (s.headCrossed).emitted = s.emitted := rfl
@[simp] theorem State.headCrossed_emittedBefore (s : State) : (s.headCrossed).emittedBefore = s.emittedBefore := rfl
@[simp] theorem State.headCrossed_work (s : State) : (s.headCrossed).work = s.work := rfl
@[simp] theorem State.headCrossed_fnOut (s : State) : (s.headCrossed).fnOut = s.fnOut := rfl
@[simp] theorem State.headCrossed_freeIdx (s : State) : (s.headCrossed).freeIdx = s.freeIdx := rfl

@[simp] theorem State.tailCrossed_cfg (s : State) : (s.tailCrossed).cfg = s.cfg := rfl
@[simp] theorem State.tailCrossed_prod (s : State) : (s.tailCrossed).prod = { s.prod with tfSync := s.prod.tfSync.map fun _ => grayOf s.cons.tf } := rfl
@[simp] theorem State.tailCrossed_cons (s : State) : (s.tailCrossed).cons = { s.cons with tfGray := grayOf s.cons.tf } := rfl
@[simp] theorem State.tailCrossed_pipe (s : State) : (s.tailCrossed).pipe = s.pipe := rfl
@[simp] theorem State.tailCrossed_ram (s : State) : (s.tailCrossed).ram = s.ram := rfl
@[simp] theorem State.tailCrossed_ramKept (s : State) : (s.tailCrossed).ramKept = s.ramKept := rfl
@[simp] theorem State.tailCrossed_rst (s : State) : (s.tailCrossed).rst = s.rst := rfl
@[simp] theorem State.tailCrossed_inbox (s : State) : (s.tailCrossed).inbox = s.inbox := rfl
@[simp] theorem State.tailCrossed_inLog (s : State) : (s.tailCrossed).inLog = s.inLog := rfl
@[simp] theorem State.tailCrossed_emitted (s : State) : (s.tailCrossed).emitted = s.emitted := rfl
@[simp] theorem State.tailCrossed_emittedBefore (s : State) : (s.tailCrossed).emittedBefore = s.emittedBefore := rfl
@[simp] theorem State.tailCrossed_work (s : State) : (s.tailCrossed).work = s.work := rfl
@[simp] theorem State.tailCrossed_fnOut (s : State) : (s.tailCrossed).fnOut = s.fnOut := rfl
@[simp] theorem State.tailCrossed_freeIdx (s : State) : (s.tailCrossed).freeIdx = s.freeIdx := rfl

@[simp] theorem State.accepted_cfg (s : State) (d : Byte) : (s.accepted d).cfg = s.cfg := rfl
@[simp] theorem State.accepted_cons (s : State) (d : Byte) : (s.accepted d).cons = s.cons := rfl
@[simp] theorem State.accepted_pipe (s : State) (d : Byte) : (s.accepted d).pipe = s.pipe := rfl
@[simp] theorem State.accepted_ram (s : State) (d : Byte) : (s.accepted d).ram = s.ram := rfl
@[simp] theorem State.accepted_ramKept (s : State) (d : Byte) : (s.accepted d).ramKept = s.ramKept := rfl
@[simp] theorem State.accepted_rst (s : State) (d : Byte) : (s.accepted d).rst = s.rst := rfl
@[simp] theorem State.accepted_inbox (s : State) (d : Byte) : (s.accepted d).inbox = s.inbox := rfl
@[simp] theorem State.accepted_inLog (s : State) (d : Byte) : (s.accepted d).inLog = s.inLog ++ [d] := rfl
@[simp] theorem State.accepted_emitted (s : State) (d : Byte) : (s.accepted d).emitted = s.emitted := rfl
@[simp] theorem State.accepted_emittedBefore (s : State) (d : Byte) : (s.accepted d).emittedBefore = s.emittedBefore := rfl
@[simp] theorem State.accepted_work (s : State) (d : Byte) : (s.accepted d).work = s.work := rfl
@[simp] theorem State.accepted_fnOut (s : State) (d : Byte) : (s.accepted d).fnOut = s.fnOut := rfl
@[simp] theorem State.accepted_freeIdx (s : State) (d : Byte) : (s.accepted d).freeIdx = s.freeIdx := rfl

@[simp] theorem State.commitPublished_cfg (s : State) : (s.commitPublished).cfg = s.cfg := rfl
@[simp] theorem State.commitPublished_cons (s : State) : (s.commitPublished).cons = s.cons := rfl
@[simp] theorem State.commitPublished_pipe (s : State) : (s.commitPublished).pipe = s.pipe := rfl
@[simp] theorem State.commitPublished_ram (s : State) : (s.commitPublished).ram = s.ram := rfl
@[simp] theorem State.commitPublished_ramKept (s : State) : (s.commitPublished).ramKept = s.ramKept := rfl
@[simp] theorem State.commitPublished_rst (s : State) : (s.commitPublished).rst = s.rst := rfl
@[simp] theorem State.commitPublished_inbox (s : State) : (s.commitPublished).inbox = s.inbox := rfl
@[simp] theorem State.commitPublished_inLog (s : State) : (s.commitPublished).inLog = s.inLog := rfl
@[simp] theorem State.commitPublished_emitted (s : State) : (s.commitPublished).emitted = s.emitted := rfl
@[simp] theorem State.commitPublished_emittedBefore (s : State) : (s.commitPublished).emittedBefore = s.emittedBefore := rfl
@[simp] theorem State.commitPublished_work (s : State) : (s.commitPublished).work = s.work := rfl
@[simp] theorem State.commitPublished_fnOut (s : State) : (s.commitPublished).fnOut = s.fnOut := rfl
@[simp] theorem State.commitPublished_freeIdx (s : State) : (s.commitPublished).freeIdx = s.freeIdx := rfl

@[simp] theorem State.committed_cfg (s : State) (frame : List Byte) : (s.committed frame).cfg = s.cfg := rfl
@[simp] theorem State.committed_cons (s : State) (frame : List Byte) : (s.committed frame).cons = s.cons := rfl
@[simp] theorem State.committed_pipe (s : State) (frame : List Byte) : (s.committed frame).pipe = s.pipe := rfl
@[simp] theorem State.committed_ram (s : State) (frame : List Byte) : (s.committed frame).ram = slotWriteFrom s.cfg s.ram s.prod.hf 0 frame := rfl
@[simp] theorem State.committed_ramKept (s : State) (frame : List Byte) : (s.committed frame).ramKept = s.ramKept := rfl
@[simp] theorem State.committed_rst (s : State) (frame : List Byte) : (s.committed frame).rst = s.rst := rfl
@[simp] theorem State.committed_inbox (s : State) (frame : List Byte) : (s.committed frame).inbox = s.inbox := rfl
@[simp] theorem State.committed_inLog (s : State) (frame : List Byte) : (s.committed frame).inLog = s.inLog := rfl
@[simp] theorem State.committed_emitted (s : State) (frame : List Byte) : (s.committed frame).emitted = s.emitted := rfl
@[simp] theorem State.committed_emittedBefore (s : State) (frame : List Byte) : (s.committed frame).emittedBefore = s.emittedBefore := rfl
@[simp] theorem State.committed_work (s : State) (frame : List Byte) : (s.committed frame).work = s.work := rfl
@[simp] theorem State.committed_fnOut (s : State) (frame : List Byte) : (s.committed frame).fnOut = s.fnOut := rfl
@[simp] theorem State.committed_freeIdx (s : State) (frame : List Byte) : (s.committed frame).freeIdx = s.freeIdx := rfl

@[simp] theorem State.backpressured_cfg (s : State) : (s.backpressured).cfg = s.cfg := by unfold State.backpressured; split <;> rfl
@[simp] theorem State.backpressured_cons (s : State) : (s.backpressured).cons = s.cons := by unfold State.backpressured; split <;> rfl
@[simp] theorem State.backpressured_pipe (s : State) : (s.backpressured).pipe = s.pipe := by unfold State.backpressured; split <;> rfl
@[simp] theorem State.backpressured_ram (s : State) : (s.backpressured).ram = s.ram := by unfold State.backpressured; split <;> rfl
@[simp] theorem State.backpressured_ramKept (s : State) : (s.backpressured).ramKept = s.ramKept := by unfold State.backpressured; split <;> rfl
@[simp] theorem State.backpressured_rst (s : State) : (s.backpressured).rst = s.rst := by unfold State.backpressured; split <;> rfl
@[simp] theorem State.backpressured_inbox (s : State) : (s.backpressured).inbox = s.inbox := by unfold State.backpressured; split <;> rfl
@[simp] theorem State.backpressured_inLog (s : State) : (s.backpressured).inLog = s.inLog := by unfold State.backpressured; split <;> rfl
@[simp] theorem State.backpressured_emitted (s : State) : (s.backpressured).emitted = s.emitted := by unfold State.backpressured; split <;> rfl
@[simp] theorem State.backpressured_emittedBefore (s : State) : (s.backpressured).emittedBefore = s.emittedBefore := by unfold State.backpressured; split <;> rfl
@[simp] theorem State.backpressured_work (s : State) : (s.backpressured).work = s.work := by unfold State.backpressured; split <;> rfl
@[simp] theorem State.backpressured_fnOut (s : State) : (s.backpressured).fnOut = s.fnOut := by unfold State.backpressured; split <;> rfl
@[simp] theorem State.backpressured_freeIdx (s : State) : (s.backpressured).freeIdx = s.freeIdx := by unfold State.backpressured; split <;> rfl

@[simp] theorem State.dequeuePublished_cfg (s : State) : (s.dequeuePublished).cfg = s.cfg := rfl
@[simp] theorem State.dequeuePublished_prod (s : State) : (s.dequeuePublished).prod = s.prod := rfl
@[simp] theorem State.dequeuePublished_pipe (s : State) : (s.dequeuePublished).pipe = { s.pipe with phase := .widen, stageCtr := 0, blockCtr := 0, indexCtr := 0 } := rfl
@[simp] theorem State.dequeuePublished_ram (s : State) : (s.dequeuePublished).ram = s.ram := rfl
@[simp] theorem State.dequeuePublished_ramKept (s : State) : (s.dequeuePublished).ramKept = s.ramKept := rfl
@[simp] theorem State.dequeuePublished_rst (s : State) : (s.dequeuePublished).rst = s.rst := rfl
@[simp] theorem State.dequeuePublished_inbox (s : State) : (s.dequeuePublished).inbox = s.inbox := rfl
@[simp] theorem State.dequeuePublished_inLog (s : State) : (s.dequeuePublished).inLog = s.inLog := rfl
@[simp] theorem State.dequeuePublished_emitted (s : State) : (s.dequeuePublished).emitted = s.emitted := rfl
@[simp] theorem State.dequeuePublished_emittedBefore (s : State) : (s.dequeuePublished).emittedBefore = s.emittedBefore := rfl
@[simp] theorem State.dequeuePublished_work (s : State) : (s.dequeuePublished).work = s.work := rfl
@[simp] theorem State.dequeuePublished_fnOut (s : State) : (s.dequeuePublished).fnOut = s.fnOut := rfl
@[simp] theorem State.dequeuePublished_freeIdx (s : State) : (s.dequeuePublished).freeIdx = s.freeIdx := rfl

@[simp] theorem State.dequeued_cfg (s : State) (frame : List Byte) : (s.dequeued frame).cfg = s.cfg := rfl
@[simp] theorem State.dequeued_prod (s : State) (frame : List Byte) : (s.dequeued frame).prod = s.prod := rfl
@[simp] theorem State.dequeued_pipe (s : State) (frame : List Byte) : (s.dequeued frame).pipe = { s.pipe with phase := .widen, stageCtr := 0, blockCtr := 0, indexCtr := 0 } := rfl
@[simp] theorem State.dequeued_ram (s : State) (frame : List Byte) : (s.dequeued frame).ram = s.ram := rfl
@[simp] theorem State.dequeued_ramKept (s : State) (frame : List Byte) : (s.dequeued frame).ramKept = s.ramKept := rfl
@[simp] theorem State.dequeued_rst (s : State) (frame : List Byte) : (s.dequeued frame).rst = s.rst := rfl
@[simp] theorem State.dequeued_inbox (s : State) (frame : List Byte) : (s.dequeued frame).inbox = s.inbox := rfl
@[simp] theorem State.dequeued_inLog (s : State) (frame : List Byte) : (s.dequeued frame).inLog = s.inLog := rfl
@[simp] theorem State.dequeued_emitted (s : State) (frame : List Byte) : (s.dequeued frame).emitted = s.emitted := rfl
@[simp] theorem State.dequeued_emittedBefore (s : State) (frame : List Byte) : (s.dequeued frame).emittedBefore = s.emittedBefore := rfl
@[simp] theorem State.dequeued_work (s : State) (frame : List Byte) : (s.dequeued frame).work = s.work := rfl
@[simp] theorem State.dequeued_fnOut (s : State) (frame : List Byte) : (s.dequeued frame).fnOut = s.fnOut := rfl
@[simp] theorem State.dequeued_freeIdx (s : State) (frame : List Byte) : (s.dequeued frame).freeIdx = s.freeIdx := rfl

@[simp] theorem State.processPublished_cfg (s : State) : (s.processPublished).cfg = s.cfg := rfl
@[simp] theorem State.processPublished_prod (s : State) : (s.processPublished).prod = s.prod := rfl
@[simp] theorem State.processPublished_cons (s : State) : (s.processPublished).cons = { s.cons with emitIdx := 0#10, outData := sofByte, outValid := true, state := codeEmitting } := rfl
@[simp] theorem State.processPublished_pipe (s : State) : (s.processPublished).pipe = s.pipe := rfl
@[simp] theorem State.processPublished_ram (s : State) : (s.processPublished).ram = s.ram := rfl
@[simp] theorem State.processPublished_ramKept (s : State) : (s.processPublished).ramKept = s.ramKept := rfl
@[simp] theorem State.processPublished_rst (s : State) : (s.processPublished).rst = s.rst := rfl
@[simp] theorem State.processPublished_inbox (s : State) : (s.processPublished).inbox = s.inbox := rfl
@[simp] theorem State.processPublished_inLog (s : State) : (s.processPublished).inLog = s.inLog := rfl
@[simp] theorem State.processPublished_emitted (s : State) : (s.processPublished).emitted = s.emitted := rfl
@[simp] theorem State.processPublished_emittedBefore (s : State) : (s.processPublished).emittedBefore = s.emittedBefore := rfl
@[simp] theorem State.processPublished_work (s : State) : (s.processPublished).work = s.work := rfl
@[simp] theorem State.processPublished_fnOut (s : State) : (s.processPublished).fnOut = s.fnOut := rfl
@[simp] theorem State.processPublished_freeIdx (s : State) : (s.processPublished).freeIdx = s.freeIdx := rfl

@[simp] theorem State.processed_cfg (s : State) (r : Filtered) : (s.processed r).cfg = s.cfg := rfl
@[simp] theorem State.processed_prod (s : State) (r : Filtered) : (s.processed r).prod = s.prod := rfl
@[simp] theorem State.processed_cons (s : State) (r : Filtered) : (s.processed r).cons = { s.cons with fout := fullStore r.out, emitIdx := 0#10, outData := sofByte, outValid := true, state := codeEmitting } := rfl
@[simp] theorem State.processed_pipe (s : State) (r : Filtered) : (s.processed r).pipe = { s.pipe with toWorkspace := s.pipe.toWorkspace.withFiltered r } := rfl
@[simp] theorem State.processed_ram (s : State) (r : Filtered) : (s.processed r).ram = s.ram := rfl
@[simp] theorem State.processed_ramKept (s : State) (r : Filtered) : (s.processed r).ramKept = s.ramKept := rfl
@[simp] theorem State.processed_rst (s : State) (r : Filtered) : (s.processed r).rst = s.rst := rfl
@[simp] theorem State.processed_inbox (s : State) (r : Filtered) : (s.processed r).inbox = s.inbox := rfl
@[simp] theorem State.processed_inLog (s : State) (r : Filtered) : (s.processed r).inLog = s.inLog := rfl
@[simp] theorem State.processed_emitted (s : State) (r : Filtered) : (s.processed r).emitted = s.emitted := rfl
@[simp] theorem State.processed_emittedBefore (s : State) (r : Filtered) : (s.processed r).emittedBefore = s.emittedBefore := rfl
@[simp] theorem State.processed_work (s : State) (r : Filtered) : (s.processed r).work = s.work := rfl
@[simp] theorem State.processed_fnOut (s : State) (r : Filtered) : (s.processed r).fnOut = s.fnOut := rfl
@[simp] theorem State.processed_freeIdx (s : State) (r : Filtered) : (s.processed r).freeIdx = s.freeIdx := rfl

@[simp] theorem State.emitting_cfg (s : State) (b : Byte) : (s.emitting b).cfg = s.cfg := by unfold State.emitting; split <;> rfl
@[simp] theorem State.emitting_prod (s : State) (b : Byte) : (s.emitting b).prod = s.prod := by unfold State.emitting; split <;> rfl
@[simp] theorem State.emitting_pipe (s : State) (b : Byte) : (s.emitting b).pipe = s.pipe := by unfold State.emitting; split <;> rfl
@[simp] theorem State.emitting_ram (s : State) (b : Byte) : (s.emitting b).ram = s.ram := by unfold State.emitting; split <;> rfl
@[simp] theorem State.emitting_ramKept (s : State) (b : Byte) : (s.emitting b).ramKept = s.ramKept := by unfold State.emitting; split <;> rfl
@[simp] theorem State.emitting_rst (s : State) (b : Byte) : (s.emitting b).rst = s.rst := by unfold State.emitting; split <;> rfl
@[simp] theorem State.emitting_inbox (s : State) (b : Byte) : (s.emitting b).inbox = s.inbox := by unfold State.emitting; split <;> rfl
@[simp] theorem State.emitting_inLog (s : State) (b : Byte) : (s.emitting b).inLog = s.inLog := by unfold State.emitting; split <;> rfl
@[simp] theorem State.emitting_emitted (s : State) (b : Byte) : (s.emitting b).emitted = s.emitted ++ [b] := by unfold State.emitting; split <;> rfl
@[simp] theorem State.emitting_emittedBefore (s : State) (b : Byte) : (s.emitting b).emittedBefore = s.emittedBefore := by unfold State.emitting; split <;> rfl
@[simp] theorem State.emitting_work (s : State) (b : Byte) : (s.emitting b).work = s.work := by unfold State.emitting; split <;> rfl
@[simp] theorem State.emitting_fnOut (s : State) (b : Byte) : (s.emitting b).fnOut = s.fnOut := by unfold State.emitting; split <;> rfl
@[simp] theorem State.emitting_freeIdx (s : State) (b : Byte) : (s.emitting b).freeIdx = s.freeIdx := by unfold State.emitting; split <;> rfl

@[simp] theorem State.registersReset_cfg (s : State) (line : ResetUnit) : (s.registersReset line).cfg = s.cfg := rfl
@[simp] theorem State.registersReset_prod (s : State) (line : ResetUnit) : (s.registersReset line).prod = Producer.reset s.cfg := rfl
@[simp] theorem State.registersReset_cons (s : State) (line : ResetUnit) : (s.registersReset line).cons = Consumer.reset s.cfg := rfl
@[simp] theorem State.registersReset_pipe (s : State) (line : ResetUnit) : (s.registersReset line).pipe = Pipeline.reset := rfl
@[simp] theorem State.registersReset_ram (s : State) (line : ResetUnit) : (s.registersReset line).ram = [] := rfl
@[simp] theorem State.registersReset_ramKept (s : State) (line : ResetUnit) : (s.registersReset line).ramKept = overlay s.ramKept s.ram := rfl
@[simp] theorem State.registersReset_rst (s : State) (line : ResetUnit) : (s.registersReset line).rst = line := rfl
@[simp] theorem State.registersReset_inbox (s : State) (line : ResetUnit) : (s.registersReset line).inbox = s.inbox := rfl
@[simp] theorem State.registersReset_inLog (s : State) (line : ResetUnit) : (s.registersReset line).inLog = [] := rfl
@[simp] theorem State.registersReset_emitted (s : State) (line : ResetUnit) : (s.registersReset line).emitted = [] := rfl
@[simp] theorem State.registersReset_emittedBefore (s : State) (line : ResetUnit) : (s.registersReset line).emittedBefore = s.emittedBefore ++ s.emitted := rfl
@[simp] theorem State.registersReset_work (s : State) (line : ResetUnit) : (s.registersReset line).work = Workspace.empty := rfl
@[simp] theorem State.registersReset_fnOut (s : State) (line : ResetUnit) : (s.registersReset line).fnOut = .none := rfl
@[simp] theorem State.registersReset_freeIdx (s : State) (line : ResetUnit) : (s.registersReset line).freeIdx = s.freeIdx := rfl

@[simp] theorem State.stalled_cfg (s : State) : (s.stalled).cfg = s.cfg := rfl
@[simp] theorem State.stalled_prod (s : State) : (s.stalled).prod = s.prod := rfl
@[simp] theorem State.stalled_cons (s : State) : (s.stalled).cons = s.cons := rfl
@[simp] theorem State.stalled_pipe (s : State) : (s.stalled).pipe = { s.pipe with stall := Config.procStall s.freeIdx } := rfl
@[simp] theorem State.stalled_ram (s : State) : (s.stalled).ram = s.ram := rfl
@[simp] theorem State.stalled_ramKept (s : State) : (s.stalled).ramKept = s.ramKept := rfl
@[simp] theorem State.stalled_rst (s : State) : (s.stalled).rst = s.rst := rfl
@[simp] theorem State.stalled_inbox (s : State) : (s.stalled).inbox = s.inbox := rfl
@[simp] theorem State.stalled_inLog (s : State) : (s.stalled).inLog = s.inLog := rfl
@[simp] theorem State.stalled_emitted (s : State) : (s.stalled).emitted = s.emitted := rfl
@[simp] theorem State.stalled_emittedBefore (s : State) : (s.stalled).emittedBefore = s.emittedBefore := rfl
@[simp] theorem State.stalled_work (s : State) : (s.stalled).work = s.work := rfl
@[simp] theorem State.stalled_fnOut (s : State) : (s.stalled).fnOut = s.fnOut := rfl
@[simp] theorem State.stalled_freeIdx (s : State) : (s.stalled).freeIdx = s.freeIdx + 1 := rfl

@[simp] theorem State.stallEdge_cfg (s : State) : (s.stallEdge).cfg = s.cfg := rfl
@[simp] theorem State.stallEdge_prod (s : State) : (s.stallEdge).prod = s.prod := rfl
@[simp] theorem State.stallEdge_cons (s : State) : (s.stallEdge).cons = s.cons := rfl
@[simp] theorem State.stallEdge_pipe (s : State) : (s.stallEdge).pipe = { s.pipe with stall := s.pipe.stall - 1 } := rfl
@[simp] theorem State.stallEdge_ram (s : State) : (s.stallEdge).ram = s.ram := rfl
@[simp] theorem State.stallEdge_ramKept (s : State) : (s.stallEdge).ramKept = s.ramKept := rfl
@[simp] theorem State.stallEdge_rst (s : State) : (s.stallEdge).rst = s.rst := rfl
@[simp] theorem State.stallEdge_inbox (s : State) : (s.stallEdge).inbox = s.inbox := rfl
@[simp] theorem State.stallEdge_inLog (s : State) : (s.stallEdge).inLog = s.inLog := rfl
@[simp] theorem State.stallEdge_emitted (s : State) : (s.stallEdge).emitted = s.emitted := rfl
@[simp] theorem State.stallEdge_emittedBefore (s : State) : (s.stallEdge).emittedBefore = s.emittedBefore := rfl
@[simp] theorem State.stallEdge_work (s : State) : (s.stallEdge).work = s.work := rfl
@[simp] theorem State.stallEdge_fnOut (s : State) : (s.stallEdge).fnOut = s.fnOut := rfl
@[simp] theorem State.stallEdge_freeIdx (s : State) : (s.stallEdge).freeIdx = s.freeIdx := rfl

@[simp] theorem State.atPhase_cfg (s : State) (ph : PipePhase) (n : Nat) : (s.atPhase ph n).cfg = s.cfg := rfl
@[simp] theorem State.atPhase_prod (s : State) (ph : PipePhase) (n : Nat) : (s.atPhase ph n).prod = s.prod := rfl
@[simp] theorem State.atPhase_cons (s : State) (ph : PipePhase) (n : Nat) : (s.atPhase ph n).cons = s.cons := rfl
@[simp] theorem State.atPhase_pipe (s : State) (ph : PipePhase) (n : Nat) : (s.atPhase ph n).pipe = { s.pipe with phase := ph, stageCtr := n, blockCtr := 0, indexCtr := 0 } := rfl
@[simp] theorem State.atPhase_ram (s : State) (ph : PipePhase) (n : Nat) : (s.atPhase ph n).ram = s.ram := rfl
@[simp] theorem State.atPhase_ramKept (s : State) (ph : PipePhase) (n : Nat) : (s.atPhase ph n).ramKept = s.ramKept := rfl
@[simp] theorem State.atPhase_rst (s : State) (ph : PipePhase) (n : Nat) : (s.atPhase ph n).rst = s.rst := rfl
@[simp] theorem State.atPhase_inbox (s : State) (ph : PipePhase) (n : Nat) : (s.atPhase ph n).inbox = s.inbox := rfl
@[simp] theorem State.atPhase_inLog (s : State) (ph : PipePhase) (n : Nat) : (s.atPhase ph n).inLog = s.inLog := rfl
@[simp] theorem State.atPhase_emitted (s : State) (ph : PipePhase) (n : Nat) : (s.atPhase ph n).emitted = s.emitted := rfl
@[simp] theorem State.atPhase_emittedBefore (s : State) (ph : PipePhase) (n : Nat) : (s.atPhase ph n).emittedBefore = s.emittedBefore := rfl
@[simp] theorem State.atPhase_work (s : State) (ph : PipePhase) (n : Nat) : (s.atPhase ph n).work = s.work := rfl
@[simp] theorem State.atPhase_fnOut (s : State) (ph : PipePhase) (n : Nat) : (s.atPhase ph n).fnOut = s.fnOut := rfl
@[simp] theorem State.atPhase_freeIdx (s : State) (ph : PipePhase) (n : Nat) : (s.atPhase ph n).freeIdx = s.freeIdx := rfl

@[simp] theorem State.nextIndex_cfg (s : State) (ph : PipePhase) (n : Nat) : (s.nextIndex ph n).cfg = s.cfg := by unfold State.nextIndex; split <;> rfl
@[simp] theorem State.nextIndex_prod (s : State) (ph : PipePhase) (n : Nat) : (s.nextIndex ph n).prod = s.prod := by unfold State.nextIndex; split <;> rfl
@[simp] theorem State.nextIndex_cons (s : State) (ph : PipePhase) (n : Nat) : (s.nextIndex ph n).cons = s.cons := by unfold State.nextIndex; split <;> rfl
@[simp] theorem State.nextIndex_ram (s : State) (ph : PipePhase) (n : Nat) : (s.nextIndex ph n).ram = s.ram := by unfold State.nextIndex; split <;> rfl
@[simp] theorem State.nextIndex_ramKept (s : State) (ph : PipePhase) (n : Nat) : (s.nextIndex ph n).ramKept = s.ramKept := by unfold State.nextIndex; split <;> rfl
@[simp] theorem State.nextIndex_rst (s : State) (ph : PipePhase) (n : Nat) : (s.nextIndex ph n).rst = s.rst := by unfold State.nextIndex; split <;> rfl
@[simp] theorem State.nextIndex_inbox (s : State) (ph : PipePhase) (n : Nat) : (s.nextIndex ph n).inbox = s.inbox := by unfold State.nextIndex; split <;> rfl
@[simp] theorem State.nextIndex_inLog (s : State) (ph : PipePhase) (n : Nat) : (s.nextIndex ph n).inLog = s.inLog := by unfold State.nextIndex; split <;> rfl
@[simp] theorem State.nextIndex_emitted (s : State) (ph : PipePhase) (n : Nat) : (s.nextIndex ph n).emitted = s.emitted := by unfold State.nextIndex; split <;> rfl
@[simp] theorem State.nextIndex_emittedBefore (s : State) (ph : PipePhase) (n : Nat) : (s.nextIndex ph n).emittedBefore = s.emittedBefore := by unfold State.nextIndex; split <;> rfl
@[simp] theorem State.nextIndex_work (s : State) (ph : PipePhase) (n : Nat) : (s.nextIndex ph n).work = s.work := by unfold State.nextIndex; split <;> rfl
@[simp] theorem State.nextIndex_fnOut (s : State) (ph : PipePhase) (n : Nat) : (s.nextIndex ph n).fnOut = s.fnOut := by unfold State.nextIndex; split <;> rfl
@[simp] theorem State.nextIndex_freeIdx (s : State) (ph : PipePhase) (n : Nat) : (s.nextIndex ph n).freeIdx = s.freeIdx := by unfold State.nextIndex; split <;> rfl

@[simp] theorem State.nextButterfly_cfg (s : State) : (s.nextButterfly).cfg = s.cfg := by simp only [State.nextButterfly]; (repeat' split) <;> rfl
@[simp] theorem State.nextButterfly_prod (s : State) : (s.nextButterfly).prod = s.prod := by simp only [State.nextButterfly]; (repeat' split) <;> rfl
@[simp] theorem State.nextButterfly_cons (s : State) : (s.nextButterfly).cons = s.cons := by simp only [State.nextButterfly]; (repeat' split) <;> rfl
@[simp] theorem State.nextButterfly_ram (s : State) : (s.nextButterfly).ram = s.ram := by simp only [State.nextButterfly]; (repeat' split) <;> rfl
@[simp] theorem State.nextButterfly_ramKept (s : State) : (s.nextButterfly).ramKept = s.ramKept := by simp only [State.nextButterfly]; (repeat' split) <;> rfl
@[simp] theorem State.nextButterfly_rst (s : State) : (s.nextButterfly).rst = s.rst := by simp only [State.nextButterfly]; (repeat' split) <;> rfl
@[simp] theorem State.nextButterfly_inbox (s : State) : (s.nextButterfly).inbox = s.inbox := by simp only [State.nextButterfly]; (repeat' split) <;> rfl
@[simp] theorem State.nextButterfly_inLog (s : State) : (s.nextButterfly).inLog = s.inLog := by simp only [State.nextButterfly]; (repeat' split) <;> rfl
@[simp] theorem State.nextButterfly_emitted (s : State) : (s.nextButterfly).emitted = s.emitted := by simp only [State.nextButterfly]; (repeat' split) <;> rfl
@[simp] theorem State.nextButterfly_emittedBefore (s : State) : (s.nextButterfly).emittedBefore = s.emittedBefore := by simp only [State.nextButterfly]; (repeat' split) <;> rfl
@[simp] theorem State.nextButterfly_work (s : State) : (s.nextButterfly).work = s.work := by simp only [State.nextButterfly]; (repeat' split) <;> rfl
@[simp] theorem State.nextButterfly_fnOut (s : State) : (s.nextButterfly).fnOut = s.fnOut := by simp only [State.nextButterfly]; (repeat' split) <;> rfl
@[simp] theorem State.nextButterfly_freeIdx (s : State) : (s.nextButterfly).freeIdx = s.freeIdx := by simp only [State.nextButterfly]; (repeat' split) <;> rfl

@[simp] theorem State.checkEdge_cfg (s : State) : (s.checkEdge).cfg = s.cfg := by simp only [State.checkEdge]; (repeat' split) <;> simp
@[simp] theorem State.checkEdge_cons (s : State) : (s.checkEdge).cons = s.cons := by simp only [State.checkEdge]; (repeat' split) <;> simp
@[simp] theorem State.checkEdge_pipe (s : State) : (s.checkEdge).pipe = s.pipe := by simp only [State.checkEdge]; (repeat' split) <;> simp
@[simp] theorem State.checkEdge_ram (s : State) : (s.checkEdge).ram = s.ram := by simp only [State.checkEdge]; (repeat' split) <;> simp
@[simp] theorem State.checkEdge_ramKept (s : State) : (s.checkEdge).ramKept = s.ramKept := by simp only [State.checkEdge]; (repeat' split) <;> simp
@[simp] theorem State.checkEdge_rst (s : State) : (s.checkEdge).rst = s.rst := by simp only [State.checkEdge]; (repeat' split) <;> simp
@[simp] theorem State.checkEdge_inbox (s : State) : (s.checkEdge).inbox = s.inbox := by simp only [State.checkEdge]; (repeat' split) <;> simp
@[simp] theorem State.checkEdge_inLog (s : State) : (s.checkEdge).inLog = s.inLog := by simp only [State.checkEdge]; (repeat' split) <;> simp
@[simp] theorem State.checkEdge_emitted (s : State) : (s.checkEdge).emitted = s.emitted := by simp only [State.checkEdge]; (repeat' split) <;> simp
@[simp] theorem State.checkEdge_emittedBefore (s : State) : (s.checkEdge).emittedBefore = s.emittedBefore := by simp only [State.checkEdge]; (repeat' split) <;> simp
@[simp] theorem State.checkEdge_work (s : State) : (s.checkEdge).work = s.work := by simp only [State.checkEdge]; (repeat' split) <;> simp
@[simp] theorem State.checkEdge_fnOut (s : State) : (s.checkEdge).fnOut = s.fnOut := by simp only [State.checkEdge]; (repeat' split) <;> simp
@[simp] theorem State.checkEdge_freeIdx (s : State) : (s.checkEdge).freeIdx = s.freeIdx := by simp only [State.checkEdge]; (repeat' split) <;> simp

@[simp] theorem State.waitEdge_cfg (s : State) : (s.waitEdge).cfg = s.cfg := by unfold State.waitEdge; split <;> rfl
@[simp] theorem State.waitEdge_cons (s : State) : (s.waitEdge).cons = s.cons := by unfold State.waitEdge; split <;> rfl
@[simp] theorem State.waitEdge_pipe (s : State) : (s.waitEdge).pipe = s.pipe := by unfold State.waitEdge; split <;> rfl
@[simp] theorem State.waitEdge_ram (s : State) : (s.waitEdge).ram = s.ram := by unfold State.waitEdge; split <;> rfl
@[simp] theorem State.waitEdge_ramKept (s : State) : (s.waitEdge).ramKept = s.ramKept := by unfold State.waitEdge; split <;> rfl
@[simp] theorem State.waitEdge_rst (s : State) : (s.waitEdge).rst = s.rst := by unfold State.waitEdge; split <;> rfl
@[simp] theorem State.waitEdge_inbox (s : State) : (s.waitEdge).inbox = s.inbox := by unfold State.waitEdge; split <;> rfl
@[simp] theorem State.waitEdge_inLog (s : State) : (s.waitEdge).inLog = s.inLog := by unfold State.waitEdge; split <;> rfl
@[simp] theorem State.waitEdge_emitted (s : State) : (s.waitEdge).emitted = s.emitted := by unfold State.waitEdge; split <;> rfl
@[simp] theorem State.waitEdge_emittedBefore (s : State) : (s.waitEdge).emittedBefore = s.emittedBefore := by unfold State.waitEdge; split <;> rfl
@[simp] theorem State.waitEdge_work (s : State) : (s.waitEdge).work = s.work := by unfold State.waitEdge; split <;> rfl
@[simp] theorem State.waitEdge_fnOut (s : State) : (s.waitEdge).fnOut = s.fnOut := by unfold State.waitEdge; split <;> rfl
@[simp] theorem State.waitEdge_freeIdx (s : State) : (s.waitEdge).freeIdx = s.freeIdx := by unfold State.waitEdge; split <;> rfl

@[simp] theorem State.prodSynced_cfg (s : State) (o : State) : (s.prodSynced o).cfg = s.cfg := rfl
@[simp] theorem State.prodSynced_prod (s : State) (o : State) : (s.prodSynced o).prod = { s.prod with hfGray := grayOf o.prod.hf, tfSync := shiftIn o.cons.tfGray o.prod.tfSync } := rfl
@[simp] theorem State.prodSynced_cons (s : State) (o : State) : (s.prodSynced o).cons = s.cons := rfl
@[simp] theorem State.prodSynced_pipe (s : State) (o : State) : (s.prodSynced o).pipe = s.pipe := rfl
@[simp] theorem State.prodSynced_ram (s : State) (o : State) : (s.prodSynced o).ram = s.ram := rfl
@[simp] theorem State.prodSynced_ramKept (s : State) (o : State) : (s.prodSynced o).ramKept = s.ramKept := rfl
@[simp] theorem State.prodSynced_rst (s : State) (o : State) : (s.prodSynced o).rst = s.rst := rfl
@[simp] theorem State.prodSynced_inbox (s : State) (o : State) : (s.prodSynced o).inbox = s.inbox := rfl
@[simp] theorem State.prodSynced_inLog (s : State) (o : State) : (s.prodSynced o).inLog = s.inLog := rfl
@[simp] theorem State.prodSynced_emitted (s : State) (o : State) : (s.prodSynced o).emitted = s.emitted := rfl
@[simp] theorem State.prodSynced_emittedBefore (s : State) (o : State) : (s.prodSynced o).emittedBefore = s.emittedBefore := rfl
@[simp] theorem State.prodSynced_work (s : State) (o : State) : (s.prodSynced o).work = s.work := rfl
@[simp] theorem State.prodSynced_fnOut (s : State) (o : State) : (s.prodSynced o).fnOut = s.fnOut := rfl
@[simp] theorem State.prodSynced_freeIdx (s : State) (o : State) : (s.prodSynced o).freeIdx = s.freeIdx := rfl

@[simp] theorem State.consSynced_cfg (s : State) (o : State) : (s.consSynced o).cfg = s.cfg := rfl
@[simp] theorem State.consSynced_prod (s : State) (o : State) : (s.consSynced o).prod = s.prod := rfl
@[simp] theorem State.consSynced_cons (s : State) (o : State) : (s.consSynced o).cons = { s.cons with tfGray := grayOf o.cons.tf, hfSync := shiftIn o.prod.hfGray o.cons.hfSync } := rfl
@[simp] theorem State.consSynced_pipe (s : State) (o : State) : (s.consSynced o).pipe = s.pipe := rfl
@[simp] theorem State.consSynced_ram (s : State) (o : State) : (s.consSynced o).ram = s.ram := rfl
@[simp] theorem State.consSynced_ramKept (s : State) (o : State) : (s.consSynced o).ramKept = s.ramKept := rfl
@[simp] theorem State.consSynced_rst (s : State) (o : State) : (s.consSynced o).rst = s.rst := rfl
@[simp] theorem State.consSynced_inbox (s : State) (o : State) : (s.consSynced o).inbox = s.inbox := rfl
@[simp] theorem State.consSynced_inLog (s : State) (o : State) : (s.consSynced o).inLog = s.inLog := rfl
@[simp] theorem State.consSynced_emitted (s : State) (o : State) : (s.consSynced o).emitted = s.emitted := rfl
@[simp] theorem State.consSynced_emittedBefore (s : State) (o : State) : (s.consSynced o).emittedBefore = s.emittedBefore := rfl
@[simp] theorem State.consSynced_work (s : State) (o : State) : (s.consSynced o).work = s.work := rfl
@[simp] theorem State.consSynced_fnOut (s : State) (o : State) : (s.consSynced o).fnOut = s.fnOut := rfl
@[simp] theorem State.consSynced_freeIdx (s : State) (o : State) : (s.consSynced o).freeIdx = s.freeIdx := rfl

@[simp] theorem State.accepted_prod_state (s : State) (d : Byte) : (s.accepted d).prod.state = (if s.prod.stageCnt + 1#10 = 512#10 then codeCommit else codeAccum) := rfl
@[simp] theorem State.accepted_prod_stageCnt (s : State) (d : Byte) : (s.accepted d).prod.stageCnt = s.prod.stageCnt + 1#10 := rfl
@[simp] theorem State.accepted_prod_stage (s : State) (d : Byte) : (s.accepted d).prod.stage = writeCell s.prod.stage s.prod.stageCnt.toNat d := rfl
@[simp] theorem State.accepted_prod_hf (s : State) (d : Byte) : (s.accepted d).prod.hf = s.prod.hf := rfl
@[simp] theorem State.accepted_prod_bpFlag (s : State) (d : Byte) : (s.accepted d).prod.bpFlag = s.prod.bpFlag := rfl
@[simp] theorem State.accepted_prod_bpCount (s : State) (d : Byte) : (s.accepted d).prod.bpCount = s.prod.bpCount := rfl
@[simp] theorem State.accepted_prod_cphase (s : State) (d : Byte) : (s.accepted d).prod.cphase = (if s.prod.stageCnt + 1#10 = 512#10 then .check else s.prod.cphase) := rfl
@[simp] theorem State.accepted_prod_waitCnt (s : State) (d : Byte) : (s.accepted d).prod.waitCnt = s.prod.waitCnt := rfl
@[simp] theorem State.accepted_prod_copyIdx (s : State) (d : Byte) : (s.accepted d).prod.copyIdx = s.prod.copyIdx := rfl
@[simp] theorem State.accepted_prod_hfGray (s : State) (d : Byte) : (s.accepted d).prod.hfGray = s.prod.hfGray := rfl
@[simp] theorem State.accepted_prod_tfSync (s : State) (d : Byte) : (s.accepted d).prod.tfSync = s.prod.tfSync := rfl

@[simp] theorem State.commitPublished_prod_state (s : State) : (s.commitPublished).prod.state = codeIdle := rfl
@[simp] theorem State.commitPublished_prod_stageCnt (s : State) : (s.commitPublished).prod.stageCnt = 0#10 := rfl
@[simp] theorem State.commitPublished_prod_stage (s : State) : (s.commitPublished).prod.stage = s.prod.stage := rfl
@[simp] theorem State.commitPublished_prod_hf (s : State) : (s.commitPublished).prod.hf = ptrNext s.slots s.prod.hf := rfl
@[simp] theorem State.commitPublished_prod_bpFlag (s : State) : (s.commitPublished).prod.bpFlag = false := rfl
@[simp] theorem State.commitPublished_prod_bpCount (s : State) : (s.commitPublished).prod.bpCount = s.prod.bpCount := rfl
@[simp] theorem State.commitPublished_prod_cphase (s : State) : (s.commitPublished).prod.cphase = .check := rfl
@[simp] theorem State.commitPublished_prod_waitCnt (s : State) : (s.commitPublished).prod.waitCnt = s.prod.waitCnt := rfl
@[simp] theorem State.commitPublished_prod_copyIdx (s : State) : (s.commitPublished).prod.copyIdx = s.prod.copyIdx := rfl
@[simp] theorem State.commitPublished_prod_hfGray (s : State) : (s.commitPublished).prod.hfGray = s.prod.hfGray := rfl
@[simp] theorem State.commitPublished_prod_tfSync (s : State) : (s.commitPublished).prod.tfSync = s.prod.tfSync := rfl

@[simp] theorem State.committed_prod_state (s : State) (frame : List Byte) : (s.committed frame).prod.state = codeIdle := rfl
@[simp] theorem State.committed_prod_stageCnt (s : State) (frame : List Byte) : (s.committed frame).prod.stageCnt = 0#10 := rfl
@[simp] theorem State.committed_prod_stage (s : State) (frame : List Byte) : (s.committed frame).prod.stage = s.prod.stage := rfl
@[simp] theorem State.committed_prod_hf (s : State) (frame : List Byte) : (s.committed frame).prod.hf = ptrNext s.slots s.prod.hf := rfl
@[simp] theorem State.committed_prod_bpFlag (s : State) (frame : List Byte) : (s.committed frame).prod.bpFlag = false := rfl
@[simp] theorem State.committed_prod_bpCount (s : State) (frame : List Byte) : (s.committed frame).prod.bpCount = s.prod.bpCount := rfl
@[simp] theorem State.committed_prod_cphase (s : State) (frame : List Byte) : (s.committed frame).prod.cphase = .check := rfl
@[simp] theorem State.committed_prod_waitCnt (s : State) (frame : List Byte) : (s.committed frame).prod.waitCnt = s.prod.waitCnt := rfl
@[simp] theorem State.committed_prod_copyIdx (s : State) (frame : List Byte) : (s.committed frame).prod.copyIdx = 511#9 := rfl
@[simp] theorem State.committed_prod_hfGray (s : State) (frame : List Byte) : (s.committed frame).prod.hfGray = s.prod.hfGray := rfl
@[simp] theorem State.committed_prod_tfSync (s : State) (frame : List Byte) : (s.committed frame).prod.tfSync = s.prod.tfSync := rfl

@[simp] theorem State.backpressured_prod_state (s : State) : (s.backpressured).prod.state = s.prod.state := by unfold State.backpressured; split <;> rfl
@[simp] theorem State.backpressured_prod_stageCnt (s : State) : (s.backpressured).prod.stageCnt = s.prod.stageCnt := by unfold State.backpressured; split <;> rfl
@[simp] theorem State.backpressured_prod_stage (s : State) : (s.backpressured).prod.stage = s.prod.stage := by unfold State.backpressured; split <;> rfl
@[simp] theorem State.backpressured_prod_hf (s : State) : (s.backpressured).prod.hf = s.prod.hf := by unfold State.backpressured; split <;> rfl
@[simp] theorem State.backpressured_prod_cphase (s : State) : (s.backpressured).prod.cphase = s.prod.cphase := by unfold State.backpressured; split <;> rfl
@[simp] theorem State.backpressured_prod_waitCnt (s : State) : (s.backpressured).prod.waitCnt = s.prod.waitCnt := by unfold State.backpressured; split <;> rfl
@[simp] theorem State.backpressured_prod_copyIdx (s : State) : (s.backpressured).prod.copyIdx = s.prod.copyIdx := by unfold State.backpressured; split <;> rfl
@[simp] theorem State.backpressured_prod_hfGray (s : State) : (s.backpressured).prod.hfGray = s.prod.hfGray := by unfold State.backpressured; split <;> rfl
@[simp] theorem State.backpressured_prod_tfSync (s : State) : (s.backpressured).prod.tfSync = s.prod.tfSync := by unfold State.backpressured; split <;> rfl

@[simp] theorem State.backpressured_prod_bpFlag (s : State) : s.backpressured.prod.bpFlag = true := by
  unfold State.backpressured; split <;> simp_all
@[simp] theorem State.backpressured_prod_bpCount (s : State) :
    s.backpressured.prod.bpCount = if s.prod.bpFlag then s.prod.bpCount else s.prod.bpCount + 1#32 := by
  unfold State.backpressured; split <;> rfl

@[simp] theorem State.dequeuePublished_cons_state (s : State) : (s.dequeuePublished).cons.state = codeProcessing := rfl
@[simp] theorem State.dequeuePublished_cons_tf (s : State) : (s.dequeuePublished).cons.tf = ptrNext s.slots s.cons.tf := rfl
@[simp] theorem State.dequeuePublished_cons_fin (s : State) : (s.dequeuePublished).cons.fin = s.cons.fin := rfl
@[simp] theorem State.dequeuePublished_cons_fout (s : State) : (s.dequeuePublished).cons.fout = s.cons.fout := rfl
@[simp] theorem State.dequeuePublished_cons_emitIdx (s : State) : (s.dequeuePublished).cons.emitIdx = s.cons.emitIdx := rfl
@[simp] theorem State.dequeuePublished_cons_dqActive (s : State) : (s.dequeuePublished).cons.dqActive = false := rfl
@[simp] theorem State.dequeuePublished_cons_rdIdx (s : State) : (s.dequeuePublished).cons.rdIdx = s.cons.rdIdx := rfl
@[simp] theorem State.dequeuePublished_cons_outValid (s : State) : (s.dequeuePublished).cons.outValid = s.cons.outValid := rfl
@[simp] theorem State.dequeuePublished_cons_outData (s : State) : (s.dequeuePublished).cons.outData = s.cons.outData := rfl
@[simp] theorem State.dequeuePublished_cons_tfGray (s : State) : (s.dequeuePublished).cons.tfGray = s.cons.tfGray := rfl
@[simp] theorem State.dequeuePublished_cons_hfSync (s : State) : (s.dequeuePublished).cons.hfSync = s.cons.hfSync := rfl

@[simp] theorem State.dequeued_cons_state (s : State) (frame : List Byte) : (s.dequeued frame).cons.state = codeProcessing := rfl
@[simp] theorem State.dequeued_cons_tf (s : State) (frame : List Byte) : (s.dequeued frame).cons.tf = ptrNext s.slots s.cons.tf := rfl
@[simp] theorem State.dequeued_cons_fin (s : State) (frame : List Byte) : (s.dequeued frame).cons.fin = fullStore frame := rfl
@[simp] theorem State.dequeued_cons_fout (s : State) (frame : List Byte) : (s.dequeued frame).cons.fout = s.cons.fout := rfl
@[simp] theorem State.dequeued_cons_emitIdx (s : State) (frame : List Byte) : (s.dequeued frame).cons.emitIdx = s.cons.emitIdx := rfl
@[simp] theorem State.dequeued_cons_dqActive (s : State) (frame : List Byte) : (s.dequeued frame).cons.dqActive = false := rfl
@[simp] theorem State.dequeued_cons_rdIdx (s : State) (frame : List Byte) : (s.dequeued frame).cons.rdIdx = 511#9 := rfl
@[simp] theorem State.dequeued_cons_outValid (s : State) (frame : List Byte) : (s.dequeued frame).cons.outValid = s.cons.outValid := rfl
@[simp] theorem State.dequeued_cons_outData (s : State) (frame : List Byte) : (s.dequeued frame).cons.outData = s.cons.outData := rfl
@[simp] theorem State.dequeued_cons_tfGray (s : State) (frame : List Byte) : (s.dequeued frame).cons.tfGray = s.cons.tfGray := rfl
@[simp] theorem State.dequeued_cons_hfSync (s : State) (frame : List Byte) : (s.dequeued frame).cons.hfSync = s.cons.hfSync := rfl

@[simp] theorem State.emitting_cons_state (s : State) (b : Byte) : (s.emitting b).cons.state = (if s.cons.emitIdx = 513#10 then codeWaiting else s.cons.state) := by unfold State.emitting; split <;> rfl
@[simp] theorem State.emitting_cons_tf (s : State) (b : Byte) : (s.emitting b).cons.tf = s.cons.tf := by unfold State.emitting; split <;> rfl
@[simp] theorem State.emitting_cons_fin (s : State) (b : Byte) : (s.emitting b).cons.fin = s.cons.fin := by unfold State.emitting; split <;> rfl
@[simp] theorem State.emitting_cons_fout (s : State) (b : Byte) : (s.emitting b).cons.fout = s.cons.fout := by unfold State.emitting; split <;> rfl
@[simp] theorem State.emitting_cons_emitIdx (s : State) (b : Byte) : (s.emitting b).cons.emitIdx = (if s.cons.emitIdx = 513#10 then 0#10 else s.cons.emitIdx + 1#10) := by unfold State.emitting; split <;> rfl
@[simp] theorem State.emitting_cons_dqActive (s : State) (b : Byte) : (s.emitting b).cons.dqActive = s.cons.dqActive := by unfold State.emitting; split <;> rfl
@[simp] theorem State.emitting_cons_rdIdx (s : State) (b : Byte) : (s.emitting b).cons.rdIdx = s.cons.rdIdx := by unfold State.emitting; split <;> rfl
@[simp] theorem State.emitting_cons_outValid (s : State) (b : Byte) : (s.emitting b).cons.outValid = (if s.cons.emitIdx = 513#10 then false else true) := by unfold State.emitting; split <;> rfl
@[simp] theorem State.emitting_cons_outData (s : State) (b : Byte) : (s.emitting b).cons.outData = (if s.cons.emitIdx = 513#10 then b else s.nextOutData (s.cons.emitIdx.toNat + 1)) := by unfold State.emitting; split <;> rfl
@[simp] theorem State.emitting_cons_tfGray (s : State) (b : Byte) : (s.emitting b).cons.tfGray = s.cons.tfGray := by unfold State.emitting; split <;> rfl
@[simp] theorem State.emitting_cons_hfSync (s : State) (b : Byte) : (s.emitting b).cons.hfSync = s.cons.hfSync := by unfold State.emitting; split <;> rfl

@[simp] theorem State.joined_cfg (s : State) (a b : State) (h t : Bool) : (s.joined a b h t).cfg = a.cfg := rfl
@[simp] theorem State.joined_pipe (s : State) (a b : State) (h t : Bool) : (s.joined a b h t).pipe = b.pipe := rfl
@[simp] theorem State.joined_ram (s : State) (a b : State) (h t : Bool) : (s.joined a b h t).ram = a.ram := rfl
@[simp] theorem State.joined_ramKept (s : State) (a b : State) (h t : Bool) : (s.joined a b h t).ramKept = a.ramKept := rfl
@[simp] theorem State.joined_rst (s : State) (a b : State) (h t : Bool) : (s.joined a b h t).rst = { a.rst with procSync := b.rst.procSync, lowProc := b.rst.lowProc } := rfl
@[simp] theorem State.joined_inbox (s : State) (a b : State) (h t : Bool) : (s.joined a b h t).inbox = a.inbox := rfl
@[simp] theorem State.joined_inLog (s : State) (a b : State) (h t : Bool) : (s.joined a b h t).inLog = a.inLog := rfl
@[simp] theorem State.joined_emitted (s : State) (a b : State) (h t : Bool) : (s.joined a b h t).emitted = b.emitted := rfl
@[simp] theorem State.joined_emittedBefore (s : State) (a b : State) (h t : Bool) : (s.joined a b h t).emittedBefore = a.emittedBefore := rfl
@[simp] theorem State.joined_work (s : State) (a b : State) (h t : Bool) : (s.joined a b h t).work = a.work := rfl
@[simp] theorem State.joined_fnOut (s : State) (a b : State) (h t : Bool) : (s.joined a b h t).fnOut = a.fnOut := rfl
@[simp] theorem State.joined_freeIdx (s : State) (a b : State) (h t : Bool) : (s.joined a b h t).freeIdx = b.freeIdx := rfl
@[simp] theorem State.joined_prod_state (s : State) (a b : State) (h t : Bool) : (s.joined a b h t).prod.state = a.prod.state := rfl
@[simp] theorem State.joined_prod_stageCnt (s : State) (a b : State) (h t : Bool) : (s.joined a b h t).prod.stageCnt = a.prod.stageCnt := rfl
@[simp] theorem State.joined_prod_stage (s : State) (a b : State) (h t : Bool) : (s.joined a b h t).prod.stage = a.prod.stage := rfl
@[simp] theorem State.joined_prod_hf (s : State) (a b : State) (h t : Bool) : (s.joined a b h t).prod.hf = a.prod.hf := rfl
@[simp] theorem State.joined_prod_bpFlag (s : State) (a b : State) (h t : Bool) : (s.joined a b h t).prod.bpFlag = a.prod.bpFlag := rfl
@[simp] theorem State.joined_prod_bpCount (s : State) (a b : State) (h t : Bool) : (s.joined a b h t).prod.bpCount = a.prod.bpCount := rfl
@[simp] theorem State.joined_prod_cphase (s : State) (a b : State) (h t : Bool) : (s.joined a b h t).prod.cphase = a.prod.cphase := rfl
@[simp] theorem State.joined_prod_waitCnt (s : State) (a b : State) (h t : Bool) : (s.joined a b h t).prod.waitCnt = a.prod.waitCnt := rfl
@[simp] theorem State.joined_prod_copyIdx (s : State) (a b : State) (h t : Bool) : (s.joined a b h t).prod.copyIdx = a.prod.copyIdx := rfl
@[simp] theorem State.joined_prod_hfGray (s : State) (a b : State) (h t : Bool) : (s.joined a b h t).prod.hfGray = a.prod.hfGray := rfl
@[simp] theorem State.joined_cons_state (s : State) (a b : State) (h t : Bool) : (s.joined a b h t).cons.state = b.cons.state := rfl
@[simp] theorem State.joined_cons_tf (s : State) (a b : State) (h t : Bool) : (s.joined a b h t).cons.tf = b.cons.tf := rfl
@[simp] theorem State.joined_cons_fin (s : State) (a b : State) (h t : Bool) : (s.joined a b h t).cons.fin = b.cons.fin := rfl
@[simp] theorem State.joined_cons_fout (s : State) (a b : State) (h t : Bool) : (s.joined a b h t).cons.fout = b.cons.fout := rfl
@[simp] theorem State.joined_cons_emitIdx (s : State) (a b : State) (h t : Bool) : (s.joined a b h t).cons.emitIdx = b.cons.emitIdx := rfl
@[simp] theorem State.joined_cons_dqActive (s : State) (a b : State) (h t : Bool) : (s.joined a b h t).cons.dqActive = b.cons.dqActive := rfl
@[simp] theorem State.joined_cons_rdIdx (s : State) (a b : State) (h t : Bool) : (s.joined a b h t).cons.rdIdx = b.cons.rdIdx := rfl
@[simp] theorem State.joined_cons_outValid (s : State) (a b : State) (h t : Bool) : (s.joined a b h t).cons.outValid = b.cons.outValid := rfl
@[simp] theorem State.joined_cons_outData (s : State) (a b : State) (h t : Bool) : (s.joined a b h t).cons.outData = b.cons.outData := rfl
@[simp] theorem State.joined_cons_tfGray (s : State) (a b : State) (h t : Bool) : (s.joined a b h t).cons.tfGray = b.cons.tfGray := rfl

/-! ## The arrays of a workspace -/

@[simp] theorem Workspace.withSpectrum_x (w : Workspace) (l : List Cplx) : (w.withSpectrum l).x = fullStore l := rfl
@[simp] theorem Workspace.withSpectrum_cosp (w : Workspace) (l : List Cplx) : (w.withSpectrum l).cosp = w.cosp := rfl
@[simp] theorem Workspace.withSpectrum_sinp (w : Workspace) (l : List Cplx) : (w.withSpectrum l).sinp = w.sinp := rfl
@[simp] theorem Workspace.withSpectrum_y (w : Workspace) (l : List Cplx) : (w.withSpectrum l).y = w.y := rfl

@[simp] theorem Workspace.withPhaseTable_x (w : Workspace) (l : List Cplx) : (w.withPhaseTable l).x = w.x := rfl
@[simp] theorem Workspace.withPhaseTable_cosp (w : Workspace) (l : List Cplx) : (w.withPhaseTable l).cosp = fullStore (l.map Cplx.re) := rfl
@[simp] theorem Workspace.withPhaseTable_sinp (w : Workspace) (l : List Cplx) : (w.withPhaseTable l).sinp = fullStore (l.map Cplx.im) := rfl
@[simp] theorem Workspace.withPhaseTable_y (w : Workspace) (l : List Cplx) : (w.withPhaseTable l).y = w.y := rfl

@[simp] theorem Workspace.withOutputs_x (w : Workspace) (l : List F32) : (w.withOutputs l).x = w.x := rfl
@[simp] theorem Workspace.withOutputs_cosp (w : Workspace) (l : List F32) : (w.withOutputs l).cosp = w.cosp := rfl
@[simp] theorem Workspace.withOutputs_sinp (w : Workspace) (l : List F32) : (w.withOutputs l).sinp = w.sinp := rfl
@[simp] theorem Workspace.withOutputs_y (w : Workspace) (l : List F32) : (w.withOutputs l).y = fullStore l := rfl

@[simp] theorem Workspace.withFiltered_x (w : Workspace) (r : Filtered) : (w.withFiltered r).x = fullStore r.x := rfl
@[simp] theorem Workspace.withFiltered_cosp (w : Workspace) (r : Filtered) : (w.withFiltered r).cosp = fullStore (r.table.map Cplx.re) := rfl
@[simp] theorem Workspace.withFiltered_sinp (w : Workspace) (r : Filtered) : (w.withFiltered r).sinp = fullStore (r.table.map Cplx.im) := rfl
@[simp] theorem Workspace.withFiltered_y (w : Workspace) (r : Filtered) : (w.withFiltered r).y = fullStore r.y := rfl

/-! ## The derived quantities read only the registers they name -/

theorem State.canCommit_eq (s : State) : s.canCommit = decide (ptrDiff s.slots s.prod.hf s.tv + 2 ≤ s.slots) := rfl

@[simp] theorem State.canCommit_inbox (s : State) (l : List Event) : ({ s with inbox := l } : State).canCommit = s.canCommit := rfl

@[simp] theorem State.framesReady_inbox (s : State) (l : List Event) :
    ({ s with inbox := l } : State).framesReady = s.framesReady := rfl

@[simp] theorem State.inReady_inbox (s : State) (l : List Event) : ({ s with inbox := l } : State).inReady = s.inReady := rfl

@[simp] theorem State.outByte_inbox (s : State) (l : List Event) (e : Nat) :
    ({ s with inbox := l } : State).outByte e = s.outByte e := rfl

end Sys2Proof.Machine
end

