-- ==== Sys2Proof/Laws/Store.lean ====
section
/-! SUPPORT. The laws of the stores and of the ring RAM: a read after a write, the canonical form kept by every operation,
and what a buffer that was filled whole reads as. -/

namespace Sys2Proof.Machine

/-! ## One element -/

/-- A read after a write: the value written at its address, the old value everywhere else. -/
theorem readCell_writeCell {α : Type} (st : Store α) (i j : Nat) (v : α) :
    readCell (writeCell st i v) j = if i = j then some v else readCell st j := by
  induction st with
  | nil => by_cases h : i = j <;> simp [writeCell, readCell, h]
  | cons c t ih =>
    obtain ⟨k, u⟩ := c
    simp only [writeCell]
    split
    · simp [readCell]
    · split
      · subst_vars; by_cases h : k = j <;> simp [readCell, h]
      · by_cases h : k = j
        · have : ¬ i = j := by omega
          simp [readCell, h, this]
        · simp [readCell, h, ih]

@[simp] theorem readCell_writeCell_same {α : Type} (st : Store α) (i : Nat) (v : α) :
    readCell (writeCell st i v) i = some v := by simp [readCell_writeCell]

theorem readCell_writeCell_other {α : Type} (st : Store α) {i j : Nat} (v : α) (h : i ≠ j) :
    readCell (writeCell st i v) j = readCell st j := by simp [readCell_writeCell, h]

/-- A store's head address, if it is not empty, is above `b`. -/
def headAbove {α : Type} (b : Nat) : Store α → Bool
  | [] => true
  | (k, _) :: _ => b < k

theorem rising_cons {α : Type} (k : Nat) (u : α) (t : Store α) :
    rising ((k, u) :: t) = (headAbove k t && rising t) := by
  cases t with
  | nil => rfl
  | cons c t => rfl

theorem headAbove_writeCell {α : Type} (b i : Nat) (v : α) (st : Store α) (hb : headAbove b st = true) (hi : b < i) :
    headAbove b (writeCell st i v) = true := by
  cases st with
  | nil => simpa [writeCell, headAbove] using hi
  | cons c t =>
    simp only [writeCell]
    split
    · simpa [headAbove] using hi
    · split
      · simpa [headAbove] using hi
      · simpa [headAbove] using hb

/-- A write keeps the canonical form. -/
theorem rising_writeCell {α : Type} (st : Store α) (i : Nat) (v : α) (h : rising st = true) :
    rising (writeCell st i v) = true := by
  induction st with
  | nil => rfl
  | cons c t ih =>
    obtain ⟨k, u⟩ := c
    rw [rising_cons, Bool.and_eq_true] at h
    simp only [writeCell]
    split
    · rename_i hi
      rw [rising_cons, rising_cons, h.1, h.2]
      simpa [headAbove] using hi
    · split
      · subst_vars; rw [rising_cons, h.1, h.2]; rfl
      · rw [rising_cons, ih h.2, headAbove_writeCell k i v t h.1 (by omega)]; rfl

/-- In a canonical store every address is above what its head is above of. -/
theorem rising_above {α : Type} (b : Nat) (st : Store α) (h : rising st = true) (hb : headAbove b st = true) :
    ∀ c ∈ st, b < c.1 := by
  induction st generalizing b with
  | nil => simp
  | cons c t ih =>
    rw [rising_cons, Bool.and_eq_true] at h
    intro d hd
    rcases List.mem_cons.1 hd with rfl | hd
    · simpa [headAbove] using hb
    · have := ih c.1 h.2 h.1 d hd
      have hc : b < c.1 := by simpa [headAbove] using hb
      omega

theorem readCell_below {α : Type} (b : Nat) (st : Store α) (h : ∀ c ∈ st, b < c.1) : readCell st b = none := by
  induction st with
  | nil => rfl
  | cons c t ih =>
    have hc := h c List.mem_cons_self
    have : ¬ c.1 = b := by omega
    simp [readCell, this, ih fun d hd => h d (List.mem_cons_of_mem _ hd)]

/-- Equal reads make equal stores, for stores in the canonical form. -/
theorem store_ext {α : Type} (a b : Store α) (ha : rising a = true) (hb : rising b = true)
    (h : ∀ i, readCell a i = readCell b i) : a = b := by
  induction a generalizing b with
  | nil =>
    cases b with
    | nil => rfl
    | cons c t => have := h c.1; simp [readCell] at this
  | cons c t ih =>
    obtain ⟨k, u⟩ := c
    rw [rising_cons, Bool.and_eq_true] at ha
    cases b with
    | nil => have := h k; simp [readCell] at this
    | cons d r =>
      obtain ⟨l, w⟩ := d
      rw [rising_cons, Bool.and_eq_true] at hb
      have at_k := h k
      have at_l := h l
      have kl : k = l := by
        by_contra ne
        rcases Nat.lt_or_gt_of_ne ne with lt | gt
        · have : readCell ((l, w) :: r) k = none := readCell_below k _ (by
            intro e he
            rcases List.mem_cons.1 he with rfl | he
            · exact lt
            · have := rising_above l r hb.2 hb.1 e he; omega)
          rw [this] at at_k; simp [readCell] at at_k
        · have : readCell ((k, u) :: t) l = none := readCell_below l _ (by
            intro e he
            rcases List.mem_cons.1 he with rfl | he
            · exact gt
            · have := rising_above k t ha.2 ha.1 e he; omega)
          rw [this] at at_l; simp [readCell] at at_l
      subst kl
      have uw : u = w := by simpa [readCell] using at_k
      subst uw
      refine congrArg _ (ih r ha.2 hb.2 fun i => ?_)
      by_cases hi : k = i
      · subst hi
        rw [readCell_below k t (rising_above k t ha.2 ha.1), readCell_below k r (rising_above k r hb.2 hb.1)]
      · simpa [readCell, hi] using h i

/-! ## Runs of elements -/

theorem rising_writeRun {α : Type} (l : List α) (st : Store α) (base : Nat) (h : rising st = true) :
    rising (writeRun st base l) = true := by
  induction l generalizing st base with
  | nil => exact h
  | cons v t ih => exact ih _ _ (rising_writeCell _ _ _ h)

/-- A buffer that was filled whole has the canonical form. -/
theorem rising_fullStore {α : Type} (l : List α) : rising (fullStore l) = true := rising_writeRun l [] 0 rfl

theorem readCell_writeRun {α : Type} (l : List α) (st : Store α) (base i : Nat) :
    readCell (writeRun st base l) i = if base ≤ i ∧ i < base + l.length then l[i - base]? else readCell st i := by
  induction l generalizing st base with
  | nil => simp only [writeRun, List.length_nil]; rw [if_neg (by omega)]
  | cons v t ih =>
    simp only [writeRun, ih, List.length_cons, readCell_writeCell]
    by_cases h0 : base = i
    · subst h0; simp
    · by_cases h1 : base ≤ i ∧ i < base + (t.length + 1)
      · have h2 : base + 1 ≤ i ∧ i < base + 1 + t.length := by omega
        have h3 : i - base = (i - (base + 1)) + 1 := by omega
        rw [if_pos h1, if_pos h2, h3]; simp
      · have h2 : ¬ (base + 1 ≤ i ∧ i < base + 1 + t.length) := by omega
        rw [if_neg h1, if_neg h2, if_neg h0]

/-- Element i of a buffer that was filled whole is the list's i-th. -/
@[simp] theorem readCell_fullStore {α : Type} (l : List α) (i : Nat) : readCell (fullStore l) i = l[i]? := by
  rw [fullStore, readCell_writeRun]
  split
  · simp
  · rw [List.getElem?_eq_none (by omega)]; rfl

theorem readElem_eq_ok {α : Type} (st : Store α) (i : Nat) (v : α) : readElem st i = .ok v ↔ readCell st i = some v := by
  unfold readElem; split <;> simp_all

theorem readElem_of_readCell {α : Type} {st : Store α} {i : Nat} {v : α} (h : readCell st i = some v) :
    readElem st i = .ok v := (readElem_eq_ok st i v).2 h

/-- What a run of reads answers: exactly the elements, all of them written. -/
theorem readRun_eq_ok {α : Type} (st : Store α) (base n : Nat) (l : List α) :
    readRun st base n = .ok l ↔ l.length = n ∧ ∀ i, i < n → readCell st (base + i) = l[i]? := by
  induction n generalizing base l with
  | zero =>
    simp only [readRun]
    constructor
    · intro h; cases h; exact ⟨rfl, fun i hi => absurd hi (Nat.not_lt_zero i)⟩
    · rintro ⟨h, -⟩; rw [List.length_eq_zero_iff.1 h]
  | succ n ih =>
    simp only [readRun]
    cases hv : readCell st base with
    | none =>
      have : readElem st base = .error .unwrittenRead := by unfold readElem; rw [hv]
      rw [this]
      constructor
      · intro h; cases h
      · rintro ⟨hl, h⟩
        have := h 0 (by omega)
        rw [Nat.add_zero, hv] at this
        rw [eq_comm, List.getElem?_eq_none_iff] at this
        omega
    | some v =>
      rw [readElem_of_readCell hv]
      constructor
      · intro h
        cases hr : readRun st (base + 1) n with
        | error f => rw [hr] at h; cases h
        | ok r =>
          rw [hr] at h
          cases h
          obtain ⟨h1, h2⟩ := (ih (base + 1) r).1 hr
          refine ⟨by simp [h1], fun i hi => ?_⟩
          cases i with
          | zero => simpa using hv
          | succ i => simpa [Nat.add_assoc, Nat.add_comm 1 i] using h2 i (by omega)
      · rintro ⟨hl, h⟩
        cases l with
        | nil => simp at hl
        | cons w r =>
          have hw := h 0 (by omega)
          rw [Nat.add_zero, hv] at hw
          have hwv : v = w := by simpa using hw
          subst hwv
          have hr : readRun st (base + 1) n = .ok r := (ih (base + 1) r).2 ⟨by simpa using hl, fun i hi => by
            simpa [Nat.add_assoc, Nat.add_comm 1 i] using h (i + 1) (by omega)⟩
          rw [hr]; rfl

/-- Reading back a buffer that was filled whole. -/
theorem readRun_fullStore {α : Type} (l : List α) : readRun (fullStore l) 0 l.length = .ok l :=
  (readRun_eq_ok _ _ _ _).2 ⟨rfl, fun i _ => by simp⟩

theorem elemOf_eq_ok {α : Type} (l : List α) (i : Nat) (v : α) : elemOf l i = .ok v ↔ l[i]? = some v := by
  unfold elemOf; split <;> simp_all

/-! ## The ring RAM -/

theorem rising_ramWrite (m : List Host.Cell) (a : Nat) (v : Byte) (h : rising m = true) :
    rising (ramWrite m a v) = true := rising_writeCell m a v h

theorem mem_writeCell {α : Type} (st : Store α) (i : Nat) (v : α) (c : Nat × α) (h : c ∈ writeCell st i v) :
    c = (i, v) ∨ c ∈ st := by
  induction st with
  | nil => simpa [writeCell] using h
  | cons d t ih =>
    simp only [writeCell] at h
    split at h
    · simpa using h
    · split at h
      · rcases List.mem_cons.1 h with h | h <;> simp [h]
      · rcases List.mem_cons.1 h with h | h
        · simp [h]
        · rcases ih h with h | h <;> simp [h]

theorem memory_wf_iff (p : Params) (m : List Host.Cell) :
    Memory.wf p m = true ↔ rising m = true ∧ ∀ c ∈ m, c.1 < p.cap := by
  simp [Memory.wf]

/-- A write inside the RAM keeps the canonical form of the RAM. -/
theorem memory_wf_ramWrite (p : Params) (m : List Host.Cell) (a : Nat) (v : Byte) (h : Memory.wf p m = true)
    (ha : a < p.cap) : Memory.wf p (ramWrite m a v) = true := by
  rw [memory_wf_iff] at *
  refine ⟨rising_ramWrite _ _ _ h.1, fun c hc => ?_⟩
  rcases mem_writeCell _ _ _ _ hc with rfl | hc
  · exact ha
  · exact h.2 c hc

theorem ramAddr_lt (p : Params) (slot i : Nat) (h : 0 < p.cap) : ramAddr p slot i < p.cap := Nat.mod_lt _ h

/-- `MemWrite` keeps the canonical form of the RAM. -/
theorem memory_wf_slotWriteFrom (p : Params) (l : List Byte) (m : List Host.Cell) (slot i : Nat) (hp : 0 < p.cap)
    (h : Memory.wf p m = true) : Memory.wf p (slotWriteFrom p m slot i l) = true := by
  induction l generalizing m i with
  | nil => exact h
  | cons v t ih => exact ih _ _ (memory_wf_ramWrite p m _ v h (ramAddr_lt p slot i hp))

/-- Laying cells over a RAM keeps the canonical form. -/
theorem memory_wf_overlay (p : Params) (m base : List Host.Cell) (hb : Memory.wf p base = true)
    (hm : Memory.wf p m = true) : Memory.wf p (overlay base m) = true := by
  have hm' := ((memory_wf_iff p m).1 hm).2
  clear hm
  induction m generalizing base with
  | nil => exact hb
  | cons c t ih =>
    refine ih _ (memory_wf_ramWrite p base c.1 c.2 hb (hm' c List.mem_cons_self)) fun d hd => ?_
    exact hm' d (List.mem_cons_of_mem _ hd)

/-- A read outside the addresses that `MemWrite` stores to is what it was. -/
theorem readCell_slotWriteFrom_other (p : Params) (l : List Byte) (m : List Host.Cell) (slot i a : Nat)
    (h : ∀ k, k < l.length → ramAddr p slot (i + k) ≠ a) :
    readCell (slotWriteFrom p m slot i l) a = readCell m a := by
  induction l generalizing m i with
  | nil => rfl
  | cons v t ih =>
    simp only [slotWriteFrom]
    rw [ih _ (i + 1) (fun k hk => by
      have := h (k + 1) (by simp only [List.length_cons]; omega)
      rwa [show i + 1 + k = i + (k + 1) by omega])]
    exact readCell_writeCell_other _ _ (by simpa using h 0 (by simp))

/-- The bytes `MemWrite` stores are read back, where its addresses are distinct. -/
theorem readCell_slotWriteFrom_same (p : Params) (l : List Byte) (m : List Host.Cell) (slot i k : Nat)
    (hk : k < l.length)
    (h : ∀ a b, a < l.length → b < l.length → ramAddr p slot (i + a) = ramAddr p slot (i + b) → a = b) :
    readCell (slotWriteFrom p m slot i l) (ramAddr p slot (i + k)) = l[k]? := by
  induction l generalizing m i k with
  | nil => exact absurd hk (Nat.not_lt_zero k)
  | cons v t ih =>
    simp only [slotWriteFrom]
    cases k with
    | zero =>
      rw [readCell_slotWriteFrom_other p t _ slot (i + 1) _ fun j hj e => ?_]
      · simp [ramWrite]
      · have := h (j + 1) 0 (by simp; omega) (by simp) (by rw [← show i + 1 + j = i + (j + 1) by omega, e])
        omega
    | succ k =>
      rw [show i + (k + 1) = i + 1 + k by omega]
      rw [ih _ (i + 1) k (by simpa using hk) fun a b ha hb e => ?_]
      · simp
      · have := h (a + 1) (b + 1) (by simp; omega) (by simp; omega) (by
          rw [← show i + 1 + a = i + (a + 1) by omega, ← show i + 1 + b = i + (b + 1) by omega, e])
        omega

/-- The 512 addresses of a slot are distinct, in a RAM of at least 512 bytes. -/
theorem ramAddr_injective (p : Params) (slot a b : Nat) (hp : 512 ≤ p.cap) (ha : a < 512) (hb : b < 512)
    (h : ramAddr p slot a = ramAddr p slot b) : a = b := by
  have h' : slot * 512 + a ≡ slot * 512 + b [MOD p.cap] := h
  have := Nat.ModEq.add_left_cancel' (slot * 512) h'
  have hm : a % p.cap = b % p.cap := this
  rwa [Nat.mod_eq_of_lt (by omega), Nat.mod_eq_of_lt (by omega)] at hm

/-- What `MemRead` answers: exactly the bytes of the slot, all of them written. -/
theorem slotReadFrom_eq_ok (p : Params) (m : List Host.Cell) (slot i n : Nat) (l : List Byte) :
    slotReadFrom p m slot i n = .ok l ↔
      l.length = n ∧ ∀ k, k < n → readCell m (ramAddr p slot (i + k)) = l[k]? := by
  induction n generalizing i l with
  | zero =>
    simp only [slotReadFrom]
    constructor
    · intro h; cases h; exact ⟨rfl, fun k hk => absurd hk (Nat.not_lt_zero k)⟩
    · rintro ⟨h, -⟩; rw [List.length_eq_zero_iff.1 h]
  | succ n ih =>
    simp only [slotReadFrom, ramRead]
    cases hv : readCell m (ramAddr p slot i) with
    | none =>
      have : readElem m (ramAddr p slot i) = .error .unwrittenRead := by unfold readElem; rw [hv]
      rw [this]
      constructor
      · intro h; cases h
      · rintro ⟨hl, h⟩
        have := h 0 (by omega)
        rw [Nat.add_zero, hv] at this
        rw [eq_comm, List.getElem?_eq_none_iff] at this
        omega
    | some v =>
      rw [readElem_of_readCell hv]
      constructor
      · intro h
        cases hr : slotReadFrom p m slot (i + 1) n with
        | error f => rw [hr] at h; cases h
        | ok r =>
          rw [hr] at h
          cases h
          obtain ⟨h1, h2⟩ := (ih (i + 1) r).1 hr
          refine ⟨by simp [h1], fun k hk => ?_⟩
          cases k with
          | zero => simpa using hv
          | succ k => simpa [Nat.add_assoc, Nat.add_comm 1 k] using h2 k (by omega)
      · rintro ⟨hl, h⟩
        cases l with
        | nil => simp at hl
        | cons w r =>
          have hw := h 0 (by omega)
          rw [Nat.add_zero, hv] at hw
          have hwv : v = w := by simpa using hw
          subst hwv
          have hr : slotReadFrom p m slot (i + 1) n = .ok r := (ih (i + 1) r).2 ⟨by simpa using hl, fun k hk => by
            simpa [Nat.add_assoc, Nat.add_comm 1 k] using h (k + 1) (by omega)⟩
          rw [hr]; rfl

/-- Laid over a RAM, the cells are read first; in a canonical list of cells each address has one. -/
theorem readCell_overlay (m base : List Host.Cell) (a : Nat) (h : rising m = true) :
    readCell (overlay base m) a = match readCell m a with
      | some v => some v
      | none => readCell base a := by
  induction m generalizing base with
  | nil => rfl
  | cons c t ih =>
    obtain ⟨k, u⟩ := c
    rw [rising_cons, Bool.and_eq_true] at h
    simp only [overlay, ih _ h.2, readCell]
    by_cases hk : k = a
    · subst hk
      rw [readCell_below k t (rising_above k t h.2 h.1)]
      simp
    · rw [readCell_writeCell_other _ _ hk, if_neg hk]

/-- The RAM of the machine right after reset has the canonical form. -/
theorem memory_wf_reset (p : Params) :
    Memory.wf p (State.resetOf p).ram = true ∧ Memory.wf p (State.resetOf p).ramKept = true := ⟨rfl, rfl⟩

end Sys2Proof.Machine
end

