-- ==== Sys2Proof/Laws/Ops.lean ====
section
/-! SUPPORT. One lemma per shared operation that says what a next state of it is, so that a proof cites it and does not unfold
the operation; and the case split of step. -/

namespace Sys2Proof.Machine

/-! ## The ends of a meaning -/

@[simp] theorem finish_eq_next (c : Except Fault State) (t : State) : finish c = .next t ↔ c = .ok t := by
  cases c <;> simp [finish]

@[simp] theorem finish_eq_fault (c : Except Fault State) (f : Fault) : finish c = .fault f ↔ c = .error f := by
  cases c <;> simp [finish]

theorem finish_ne_refused (c : Except Fault State) (r : Refusal) : finish c ≠ .refused r := by
  cases c <;> simp [finish]

/-- A checked computation that answers: its first part answers, and the rest from that. -/
theorem bind_eq_ok {α β ε : Type} (c : Except ε α) (f : α → Except ε β) (b : β) :
    (c >>= f) = .ok b ↔ ∃ a, c = .ok a ∧ f a = .ok b := by
  cases c with
  | error e => exact ⟨fun h => (nomatch h), fun ⟨_, h, _⟩ => (nomatch h)⟩
  | ok a => exact ⟨fun h => ⟨a, rfl, h⟩, fun ⟨_, h, h'⟩ => by cases h; exact h'⟩

theorem map_eq_ok {α β ε : Type} (c : Except ε α) (f : α → β) (b : β) :
    (f <$> c) = .ok b ↔ ∃ a, c = .ok a ∧ f a = b := by
  cases c with
  | error e => exact ⟨fun h => (nomatch h), fun ⟨_, h, _⟩ => (nomatch h)⟩
  | ok a => exact ⟨fun h => ⟨a, rfl, by cases h; rfl⟩, fun ⟨_, h, h'⟩ => by cases h; rw [← h']; rfl⟩

@[simp] theorem pure_eq_ok {α ε : Type} (a b : α) : (pure a : Except ε α) = .ok b ↔ a = b :=
  ⟨fun h => by cases h; rfl, fun h => by rw [h]; rfl⟩

/-- `mapChecked` answers exactly the images, in order. -/
theorem mapChecked_eq_ok {α β : Type} (f : α → Except Fault β) (l : List α) (r : List β) :
    mapChecked f l = .ok r ↔ List.Forall₂ (fun a b => f a = .ok b) l r := by
  induction l generalizing r with
  | nil =>
    simp only [mapChecked]
    exact ⟨fun h => by cases h; exact .nil, fun h => by cases h; rfl⟩
  | cons a t ih =>
    simp only [mapChecked, bind_eq_ok, pure_eq_ok]
    constructor
    · rintro ⟨b, hb, rest, hr, rfl⟩; exact .cons hb ((ih rest).1 hr)
    · rintro (_ | ⟨hb, hr⟩); exact ⟨_, hb, _, (ih _).2 hr, rfl⟩

theorem mapChecked_length {α β : Type} (f : α → Except Fault β) (l : List α) (r : List β) (h : mapChecked f l = .ok r) :
    r.length = l.length := ((mapChecked_eq_ok f l r).1 h).length_eq.symm

/-! ## The step rows -/

theorem execSyncH_eq_next (g : Nat) (s t : State) :
    execSyncH g s = .next t ↔ s.consOutOfReset = true ∧ s.headCrossed = t := by
  unfold execSyncH; split <;> simp_all

theorem execSyncT_eq_next (g : Nat) (s t : State) :
    execSyncT g s = .next t ↔ s.prodOutOfReset = true ∧ s.tailCrossed = t := by
  unfold execSyncT; split <;> simp_all

theorem execAccept_eq_next (st c : BitVec 1) (d : Byte) (s t : State) :
    execAccept st c d s = .next t ↔
      s.prod.state ≠ codeUnused ∧ s.inReady = true ∧ s.prod.state = st.setWidth 2 ∧ ¬ 512#10 ≤ s.prod.stageCnt ∧
        s.accepted d = t := by
  unfold execAccept
  by_cases h1 : s.prod.state = codeUnused
  · simp [h1]
  · by_cases h2 : s.inReady = true <;> by_cases h3 : s.prod.state = st.setWidth 2 <;>
      by_cases h4 : 512#10 ≤ s.prod.stageCnt <;> simp [h1, h2, h3, h4]
    all_goals simp_all

theorem execCommitOk_eq_next (v : BitVec 1) (x : Byte) (s t : State) :
    execCommitOk v x s = .next t ↔
      s.prodOutOfReset = true ∧ s.prod.state = codeCommit ∧ s.canCommit = true ∧
        ∃ frame, readRun s.prod.stage 0 512 = .ok frame ∧ s.committed frame = t := by
  unfold execCommitOk
  by_cases h1 : s.prod.state = codeUnused
  · simp [h1, codeUnused, codeCommit]
  · by_cases h2 : s.prodOutOfReset = true <;> by_cases h3 : s.prod.state = codeCommit <;>
      by_cases h4 : s.canCommit = true <;> simp [h2, h3, h4, codeUnused, codeCommit, map_eq_ok]
    all_goals simp_all [codeUnused, codeCommit]

theorem execCommitBp_eq_next (v : BitVec 1) (x : Byte) (s t : State) :
    execCommitBp v x s = .next t ↔
      s.prodOutOfReset = true ∧ s.prod.state = codeCommit ∧ s.canCommit = false ∧ s.backpressured = t := by
  unfold execCommitBp
  by_cases h1 : s.prod.state = codeUnused
  · simp [h1, codeUnused, codeCommit]
  · by_cases h2 : s.prodOutOfReset = true <;> by_cases h3 : s.prod.state = codeCommit <;>
      by_cases h4 : s.canCommit = true <;> simp [h1, h2, h3, h4]
    all_goals simp_all [codeUnused, codeCommit]

theorem execDequeue_eq_next (s t : State) :
    execDequeue s = .next t ↔
      s.consOutOfReset = true ∧ s.cons.state = codeWaiting ∧ s.framesReady ≠ 0 ∧
        ∃ frame, s.tailFrameBytes = .ok frame ∧ s.dequeued frame = t := by
  unfold execDequeue
  by_cases h1 : s.cons.state = codeUnused
  · simp [h1, codeUnused, codeWaiting]
  · by_cases h2 : s.consOutOfReset = true <;> by_cases h3 : s.cons.state = codeWaiting <;>
      by_cases h4 : s.framesReady = 0 <;> simp [h2, h3, h4, codeUnused, codeWaiting, map_eq_ok]
    all_goals simp_all [codeUnused, codeWaiting]

theorem execProcess_eq_next (f : BitVec 1) (s t : State) :
    execProcess f s = .next t ↔
      s.consOutOfReset = true ∧ s.cons.state = codeProcessing ∧
        ∃ v r, s.finSamples = .ok v ∧ filterFrame s.cfg.kMin s.cfg.kMax v = .ok r ∧ s.processed r = t := by
  unfold execProcess
  by_cases h1 : s.cons.state = codeUnused
  · simp [h1, codeUnused, codeProcessing]
  · by_cases h2 : s.consOutOfReset = true <;> by_cases h3 : s.cons.state = codeProcessing <;>
      simp [h2, h3, codeUnused, codeProcessing, bind_eq_ok, map_eq_ok]
    all_goals simp_all [codeUnused, codeProcessing]

/-- What the three EMIT rows share: where the guard lets the meaning through. -/
theorem emitGuarded_eq_next (s t : State) (enabled : Bool) (m : Result) :
    emitGuarded s enabled m = .next t ↔
      s.consOutOfReset = true ∧ s.cons.state = codeEmitting ∧ ¬ 513#10 < s.cons.emitIdx ∧ enabled = true ∧
        m = .next t := by
  unfold emitGuarded
  by_cases h1 : s.cons.state = codeUnused
  · simp [h1, codeUnused, codeEmitting]
  · by_cases h2 : s.consOutOfReset = true <;> by_cases h3 : s.cons.state = codeEmitting <;>
      by_cases h4 : 513#10 < s.cons.emitIdx <;> cases enabled <;> simp [h1, h2, h3, h4]
    all_goals simp_all [codeUnused, codeEmitting]

theorem execEmitSof_eq_next (s t : State) :
    execEmitSof s = .next t ↔
      s.consOutOfReset = true ∧ s.cons.state = codeEmitting ∧ s.cons.emitIdx = 0#10 ∧ s.emitting sofByte = t := by
  simp only [execEmitSof, emitGuarded_eq_next, beq_iff_eq, Host.Outcome.next.injEq]
  constructor
  · rintro ⟨a, b, -, c, d⟩; exact ⟨a, b, c, d⟩
  · rintro ⟨a, b, c, d⟩; exact ⟨a, b, by rw [c]; decide, c, d⟩

theorem execEmitEof_eq_next (s t : State) :
    execEmitEof s = .next t ↔
      s.consOutOfReset = true ∧ s.cons.state = codeEmitting ∧ s.cons.emitIdx = 513#10 ∧ s.emitting eofByte = t := by
  simp only [execEmitEof, emitGuarded_eq_next, beq_iff_eq, Host.Outcome.next.injEq]
  constructor
  · rintro ⟨a, b, -, c, d⟩; exact ⟨a, b, c, d⟩
  · rintro ⟨a, b, c, d⟩; exact ⟨a, b, by rw [c]; decide, c, d⟩

theorem execEmitData_eq_next (e : BitVec 10) (d : Byte) (s t : State) :
    execEmitData e d s = .next t ↔
      s.consOutOfReset = true ∧ s.cons.state = codeEmitting ∧ s.cons.emitIdx = e ∧ 1#10 ≤ e ∧ e ≤ 512#10 ∧
        s.outByte e.toNat = .ok d ∧ s.emitting d = t := by
  simp only [execEmitData, emitGuarded_eq_next, Bool.and_eq_true, beq_iff_eq, decide_eq_true_eq]
  constructor
  · rintro ⟨a, b, -, ⟨⟨c, p⟩, q⟩, h⟩
    refine ⟨a, b, c, p, q, ?_⟩
    cases ho : s.outByte e.toNat with
    | error f => rw [ho] at h; cases h
    | ok x =>
      rw [ho] at h
      by_cases hx : x = d
      · subst hx; simp at h; exact ⟨rfl, h⟩
      · simp [hx] at h
  · rintro ⟨a, b, c, p, q, ho, rfl⟩
    refine ⟨a, b, ?_, ⟨⟨c, p⟩, q⟩, by rw [ho]; simp⟩
    rw [c]
    simp only [BitVec.le_def, BitVec.lt_def, BitVec.toNat_ofNat] at *
    omega

/-- UNPACK answers with a sample of the tail slot's frame, and only where a frame is known to be ready. -/
theorem execUnpack_eq_next (i : BitVec 8) (s t : State) :
    execUnpack i s = .next t ↔
      s.framesReady ≠ 0 ∧ ∃ b v, s.tailFrameBytes = .ok b ∧ elemOf (unpackBytes b) i.toNat = .ok v ∧
        s.returning (.sample v) = t := by
  unfold execUnpack
  split
  · rename_i h; simp [h]
  · rename_i h
    simp only [finish_eq_next, bind_eq_ok, pure_eq_ok, ne_eq, h, not_false_eq_true, true_and]
    exact ⟨fun ⟨b, hb, v, hv, ht⟩ => ⟨b, v, hb, hv, ht⟩, fun ⟨b, v, hb, hv, ht⟩ => ⟨b, hb, v, hv, ht⟩⟩

/-! ## The instance -/

theorem isPowerOfTwo_iff (n : Nat) : isPowerOfTwo n = true ↔ ∃ k, n = 2 ^ k := by
  simp only [isPowerOfTwo, beq_iff_eq]
  exact ⟨fun h => ⟨_, h⟩, fun ⟨k, h⟩ => by rw [h, Nat.log2_two_pow]⟩

/-! ## The cycle level -/

/-- Where `in_ready` is 1, PROD is in IDLE or ACCUM (R49 item 2). -/
theorem inReady_state (s : State) (h : s.inReady = true) : s.prod.state ≠ codeUnused ∧ s.prod.state ≠ codeCommit := by
  simp only [State.inReady, Bool.and_eq_true, Bool.or_eq_true, beq_iff_eq] at h
  obtain ⟨-, e | e⟩ := h <;> simp [e, codeUnused, codeCommit, codeIdle, codeAccum]

/-- An edge that accepts: before COMMIT, with a byte offered (R113; the first 512 edges of R114). -/
theorem prodEdge_accepts (s : State) (d : Byte) (hr : s.inReady = true) (hc : s.prod.stageCnt.toNat < 512) :
    s.prodEdge true d = .ok (s.accepted d) := by
  have h : ¬ 512#10 ≤ s.prod.stageCnt := by simp only [BitVec.le_def, BitVec.toNat_ofNat]; omega
  simp [State.prodEdge, inReady_state s hr, hr, h]

/-- The edge of CHECK, whatever SRC drives (R113; the 513th edge of R114). -/
theorem prodEdge_checks (s : State) (v : Bool) (d : Byte) (hs : s.prod.state = codeCommit) (hp : s.prod.cphase = .check) :
    s.prodEdge v d = .ok s.checkEdge := by
  simp [State.prodEdge, hs, hp, codeUnused, codeCommit]

/-- An edge of COPY, whatever SRC drives, with the staged byte it moves (R113; the last 512 edges of R114). -/
theorem prodEdge_copies (s t : State) (v : Bool) (d : Byte) (hs : s.prod.state = codeCommit) (hp : s.prod.cphase = .copy) :
    s.prodEdge v d = .ok t ↔ ∃ b, readCell s.prod.stage s.prod.copyIdx.toNat = some b ∧
      t = (let u := { s with ram := ramWrite s.ram (ramAddr s.cfg s.prod.hf s.prod.copyIdx.toNat) b }
        if s.prod.copyIdx = 511#9 then u.commitPublished
        else { u with prod := { u.prod with copyIdx := u.prod.copyIdx + 1#9 } }) := by
  have he : s.prodEdge v d = s.copyEdge := by simp [State.prodEdge, hs, hp, codeUnused, codeCommit]
  rw [he]
  simp only [State.copyEdge, bind_eq_ok, readElem_eq_ok]
  refine exists_congr fun b => and_congr_right fun _ => ?_
  split <;> exact (pure_eq_ok _ _).trans eq_comm

/-- An edge before COMMIT with no byte offered (R113). -/
theorem prodEdge_idles (s : State) (d : Byte) (hr : s.inReady = true) : s.prodEdge false d = .ok s := by
  simp [State.prodEdge, inReady_state s hr]

/-- An edge of WAITING with no dequeue under way and no frame known to be ready (R120). -/
theorem consEdge_waits (s : State) (r : Bool) (hs : s.cons.state = codeWaiting) (hq : s.cons.dqActive = false)
    (hf : s.framesReady = 0) : s.consEdge r = .ok s := by
  simp [State.consEdge, hs, hq, hf, codeWaiting, codeUnused]

/-- An edge of EMITTING at which no byte is sent (R120, R49 item 5). -/
theorem consEdge_holds (s : State) (r : Bool) (hs : s.cons.state = codeEmitting)
    (hr : (s.cons.outValid && r) = false) : s.consEdge r = .ok s := by
  simp [State.consEdge, State.emitEdge, hs, hr, codeEmitting, codeWaiting, codeUnused, codeProcessing]

/-- An edge at which CONS waits for the RAM or for the pipeline (log entry 14). -/
theorem consEdge_stalls (s : State) (r : Bool)
    (hs : (s.cons.state = codeWaiting ∧ s.cons.dqActive = true) ∨ s.cons.state = codeProcessing)
    (hp : 0 < s.pipe.stall) : s.consEdge r = .ok s.stallEdge := by
  obtain ⟨hs, hq⟩ | hs := hs
  · simp [State.consEdge, hs, hq, hp, codeWaiting, codeUnused]
  · simp [State.consEdge, hs, hp, codeWaiting, codeUnused, codeProcessing]

/-- The chain after an edge: the input in the first flop, each flop in the next (R99). -/
theorem shiftIn_eq {α : Type} (v : α) (chain : List α) (h : chain ≠ []) : shiftIn v chain = v :: chain.dropLast := by
  cases chain with
  | nil => exact absurd rfl h
  | cons a t => simp [shiftIn, List.dropLast_eq_take]

/-- Edges that coincide answer exactly when each of the two edges does, from the same state. -/
theorem clkBothEdge_eq_next (v : Bool) (d : Byte) (r newHead newTail : Bool) (s t : State) :
    clkBothEdge v d r newHead newTail s = .next t ↔
      ∃ a b, clkInEdge v d s = .next a ∧ clkProcEdge r s = .next b ∧ s.joined a b newHead newTail = t := by
  unfold clkBothEdge
  cases clkInEdge v d s <;> cases clkProcEdge r s <;> simp

@[simp] theorem resolvedNew_length (code : Nat) (chain : List Nat) : (resolvedNew code chain).length = chain.length := by
  cases chain <;> rfl

@[simp] theorem shiftIn_length {α : Type} (v : α) (chain : List α) : (shiftIn v chain).length = chain.length := by
  simp [shiftIn]

/-! ## One step -/

/-- What a step that answers a next state did: nothing with no event to come, the edge of a cycle-level event, an idle turn, or
the operation of the decoded word. -/
theorem step_eq_next (s t : State) (h : step s = .next t) :
    s.cfg.legal = true ∧
      ((s.inbox = [] ∧ t = s) ∨
        ∃ ev rest, s.inbox = ev :: rest ∧
          ((ev.isCycle = true ∧ cycleStep ev { s with inbox := rest } = .next t) ∨
            (ev.isCycle = false ∧
              ((({ s with inbox := rest } : State).fetch ev = .idle ∧ t = { s with inbox := rest }) ∨
                ∃ src w i, ({ s with inbox := rest } : State).fetch ev = .word src w ∧ decode s.cfg src w = some i ∧
                  exec i { s with inbox := rest } = .next t)))) := by
  unfold step at h
  by_cases hl : s.cfg.legal = true
  · refine ⟨hl, ?_⟩
    simp only [hl, Bool.not_true, Bool.false_eq_true, if_false] at h
    cases hi : s.inbox with
    | nil => rw [hi] at h; simp at h; exact .inl ⟨rfl, h.symm⟩
    | cons ev rest =>
      rw [hi] at h
      refine .inr ⟨ev, rest, rfl, ?_⟩
      simp only [runEvent] at h
      cases hc : ev.isCycle with
      | true => rw [hc] at h; exact .inl ⟨rfl, h⟩
      | false =>
        rw [hc] at h
        refine .inr ⟨rfl, ?_⟩
        cases hf : ({ s with inbox := rest } : State).fetch ev with
        | idle => rw [hf] at h; simp [runFetched] at h; exact .inl ⟨rfl, h.symm⟩
        | stop f => rw [hf] at h; simp [runFetched] at h
        | word src w =>
          rw [hf] at h
          refine .inr ⟨src, w, ?_⟩
          simp only [runFetched, Bool.false_eq_true, if_false] at h
          cases hd : decode s.cfg src w with
          | none => rw [hd] at h; simp at h
          | some i => rw [hd] at h; exact ⟨i, rfl, rfl, h⟩
  · simp [hl] at h

end Sys2Proof.Machine
end

