-- ==== Sys2Proof/Laws/PerInstr.lean ====
section
/-! SUPPORT. The families of per-instruction lemmas that `LAWS.json` names, one lemma per constructor of `Instr`. -/

namespace Sys2Proof.Laws

/-- Family Width: the word the encoder writes has no bit above the width of its format (R60). -/
def Width.Statement (i : Instr) : Prop := ∀ p, wellFormed p i = true → (encode i).2 < 2 ^ (encode i).1.width p

theorem Width.romRead (a : BitVec 9) : Width.Statement (.romRead a) := fun _ _ => a.isLt

theorem Width.cos (t : F32) : Width.Statement (.cos t) := fun _ _ => t.isLt

theorem Width.sin (t : F32) : Width.Statement (.sin t) := fun _ _ => t.isLt

theorem Width.bitrev (i : BitVec 8) : Width.Statement (.bitrev i) := fun _ _ => i.isLt

theorem Width.stageTw (s : BitVec 4) : Width.Statement (.stageTw s) := fun _ _ => s.isLt

theorem Width.cmul (a b : Cplx) : Width.Statement (.cmul a b) := fun _ _ => by
  have := a.pack.isLt; have := b.pack.isLt; simp only [encode, Source.width]; omega

theorem Width.butterfly (s : BitVec 4) (q : BitVec 8) (j : BitVec 7) : Width.Statement (.butterfly s q j) := fun _ _ => by
  have := s.isLt; have := q.isLt; have := j.isLt; simp only [encode, Source.width]; omega

theorem Width.fft (k : BitVec 8) : Width.Statement (.fft k) := fun _ _ => k.isLt

theorem Width.ifftTw (q : BitVec 8) : Width.Statement (.ifftTw q) := fun _ _ => q.isLt

theorem Width.ifftSum (n : BitVec 8) : Width.Statement (.ifftSum n) := fun _ _ => n.isLt

theorem Width.ifft (n : BitVec 8) : Width.Statement (.ifft n) := fun _ _ => n.isLt

theorem Width.kbounds (r l h : BitVec 32) : Width.Statement (.kbounds r l h) := fun _ _ => by
  have := r.isLt; have := l.isLt; have := h.isLt; simp only [encode, Source.width]; omega

theorem Width.mask (i : BitVec 8) : Width.Statement (.mask i) := fun _ _ => i.isLt

theorem Width.unpack (i : BitVec 8) : Width.Statement (.unpack i) := fun _ _ => i.isLt

theorem Width.widen (v : Sample) : Width.Statement (.widen v) := fun _ _ => v.isLt

theorem Width.narrow (y : F32) : Width.Statement (.narrow y) := fun _ _ => y.isLt

theorem Width.pack (i : BitVec 8) : Width.Statement (.pack i) := fun _ _ => i.isLt

theorem Width.filter (n : BitVec 8) : Width.Statement (.filter n) := fun _ _ => n.isLt

theorem Width.grayEnc (b : Nat) : Width.Statement (.grayEnc b) := fun _ h => of_decide_eq_true h

theorem Width.grayDec (g : Nat) : Width.Statement (.grayDec g) := fun _ h => of_decide_eq_true h

theorem Width.syncH (g : Nat) : Width.Statement (.syncH g) := fun _ h => of_decide_eq_true h

theorem Width.syncT (g : Nat) : Width.Statement (.syncT g) := fun _ h => of_decide_eq_true h

theorem Width.accept (s c : BitVec 1) (d : Byte) : Width.Statement (.accept s c d) := fun _ _ => by
  have := s.isLt; have := c.isLt; have := d.isLt; simp only [encode, Source.width]; omega

theorem Width.commitOk (v : BitVec 1) (x : Byte) : Width.Statement (.commitOk v x) := fun _ _ => by
  have := v.isLt; have := x.isLt; simp only [encode, Source.width]; omega

theorem Width.commitBp (v : BitVec 1) (x : Byte) : Width.Statement (.commitBp v x) := fun _ _ => by
  have := v.isLt; have := x.isLt; simp only [encode, Source.width]; omega

theorem Width.dequeue : Width.Statement (.dequeue) := fun _ _ => by simp [encode, Source.width]

theorem Width.process (f : BitVec 1) : Width.Statement (.process f) := fun _ _ => by
  have := f.isLt; simp only [encode, Source.width]; omega

theorem Width.emitSof : Width.Statement (.emitSof) := fun _ _ => by simp [encode, Source.width]

theorem Width.emitData (e : BitVec 10) (d : Byte) : Width.Statement (.emitData e d) := fun _ hw => by
  have := d.isLt
  have he := of_decide_eq_true ((Bool.and_eq_true_iff).1 hw).2
  have he' : e.toNat ≤ 512 := he
  simp only [encode, Source.width]; omega

theorem Width.emitEof : Width.Statement (.emitEof) := fun _ _ => by simp [encode, Source.width]

theorem Width.reset : Width.Statement (.reset) := fun _ _ => by simp [encode, Source.width]

end Sys2Proof.Laws
end

