-- ==== Sys2Proof/Machine/Trace.lean ====
section
/-! DEFINITION. The trace notation of R63 over the step function: the commands RESET, SEND, SINK, RUN and EXPECT, and the
pseudo-commands that expand into them. -/

namespace Sys2Proof.Machine

/-- A state element or status port an EXPECT names (R63), with the value expected. -/
inductive Expectation where
  | prodState (v : BitVec 2) | stageCnt (v : Nat) | stageAt (i : Nat) (v : Byte) | hf (v : Nat) | tv (v : Nat)
  | bpFlag (v : Bool) | bpCount (v : Nat) | consState (v : BitVec 2) | tf (v : Nat) | hv (v : Nat) | framesReady (v : Nat)
  deriving DecidableEq, Repr

/-- The commands of R63. -/
inductive Command where
  /-- RESET. -/
  | reset
  /-- SEND b0 … bk. -/
  | send (bytes : List Byte)
  /-- SINK ON, SINK OFF. -/
  | sink (on : Bool)
  /-- RUN. -/
  | run
  /-- EXPECT OUT. -/
  | expectOut (bytes : List Byte)
  /-- EXPECT NOOUT. -/
  | expectNoOut
  /-- EXPECT name = value. -/
  | expect (e : Expectation)
  deriving DecidableEq, Repr

/-- SENDFRAME of R63. -/
def sendFrame (v : List Sample) : Command := .send (packSamples v)

/-- SENDZEROS of R63. -/
def sendZeros (n : Nat) : Command := .send (List.replicate n 0#8)

/-- EXPECT FRAME of R63. -/
def expectFrame (v : List Sample) : Command := .expectOut (sofByte :: packSamples v ++ [eofByte])

/-- The CORE with the two hosts of R63. -/
structure Bench where
  /-- The CORE. -/
  core : State
  /-- The bytes SRC offers, the next one first. -/
  src : List Byte
  /-- SINK takes what is offered. -/
  sinkOn : Bool
  /-- How many emitted bytes an EXPECT OUT has matched. -/
  matched : Nat
  deriving DecidableEq, Repr

/-- Everything SINK has ever taken. -/
def Bench.taken (b : Bench) : List Byte := b.core.emittedBefore ++ b.core.emitted

/-- One event of the CORE; a stop is `none`. -/
def Bench.turn (b : Bench) (ev : Event) : Option Bench :=
  match step { b.core with inbox := [ev] } with
  | .next s => some { b with core := s }
  | .fault _ => none
  | .refused _ => none

/-- PROD's turn: SRC moves on only when its byte is taken (R63). -/
def Bench.prodTurn (b : Bench) : Option Bench :=
  match b.src with
  | [] => b.turn (.prod false 0#8)
  | d :: rest =>
    if b.core.inReady then (b.turn (.prod true d)).map fun b' => { b' with src := rest } else b.turn (.prod true d)

/-- One round of RUN: PROD and CONS, with SYNC_H and SYNC_T stepping after each (R63). -/
def Bench.round (b : Bench) : Option Bench := do
  let b ← b.prodTurn
  let b ← b.turn .syncH
  let b ← b.turn .syncT
  let b ← b.turn (.cons b.sinkOn)
  let b ← b.turn .syncH
  b.turn .syncT

/-- RUN: rounds until one leaves everything unchanged, at most `fuel` of them. -/
def Bench.settle : Nat → Bench → Option Bench
  | 0, b => some b
  | n + 1, b =>
    match b.round with
    | none => none
    | some b' => if b' = b then some b else Bench.settle n b'

/-- Whether an expectation holds. -/
def Expectation.holds (s : State) : Expectation → Bool
  | .prodState v => s.stProdState == v
  | .stageCnt v => s.stStageCnt.toNat == v
  | .stageAt i v => readCell s.prod.stage i == some v
  | .hf v => s.prod.hf == v
  | .tv v => s.tv == v
  | .bpFlag v => s.prod.bpFlag == v
  | .bpCount v => s.stBpCount.toNat == v
  | .consState v => s.stConsState == v
  | .tf v => s.cons.tf == v
  | .hv v => s.hv == v
  | .framesReady v => s.stFramesReady == v

/-- One command; `none` where the CORE stops or an expectation fails. RUN takes at most `fuel` rounds (log entry 27).
SEND only queues the bytes at SRC: PROD takes them at the next RUN. R63 leaves open whether SEND by itself already lets PROD take
them, as the example of R108 can be read (DESIGN CHOICE, log entry 32). -/
def Bench.command (fuel : Nat) (b : Bench) : Command → Option Bench
  | .reset => (b.turn .reset).map fun b' => { b' with src := [] }
  | .send bytes => some { b with src := b.src ++ bytes }
  | .sink on => some { b with sinkOn := on }
  | .run => b.settle fuel
  | .expectOut bytes =>
    if (b.taken.drop b.matched).take bytes.length = bytes then some { b with matched := b.matched + bytes.length } else none
  | .expectNoOut => if b.taken.length = b.matched then some b else none
  | .expect e => if e.holds b.core then some b else none

/-- A program of R63 on an instance. R63 does not say what SINK does before the first SINK command; here it takes nothing until
SINK ON (DESIGN CHOICE, log entry 31). -/
def runTrace (p : Params) (fuel : Nat) (cmds : List Command) : Option Bench :=
  cmds.foldlM (Bench.command fuel) { core := State.resetOf p, src := [], sinkOn := false, matched := 0 }

end Sys2Proof.Machine
end

