-- ==== Sys2Proof/Tests/Slice0.lean ====
section
/-! SUPPORT. The model's own tests. Expected values are those of `95_test_vectors.md` (its section stands in each comment), of
the corner cases of the rule named, or written out by hand from the table's strings; none is the model's own answer. A `witness_`
theorem shows a state and operands that meet the hypotheses of the statement it names, at the boundary values of its clauses. -/

namespace Sys2Proof.Tests

-- One theorem after another: many kernel evaluations at once ask for more threads than the checker's memory limit allows.
set_option Elab.async false

open Sys2Proof Sys2Proof.Machine

/-- The next state of an outcome. -/
def nextOf : Result → Option State
  | .next s => some s
  | .fault _ => none
  | .refused _ => none

/-- The fault of an outcome. -/
def faultOf : Result → Option Fault
  | .next _ => none
  | .fault f => some f
  | .refused _ => none

/-- The refusal of an outcome. -/
def refusalOf : Result → Option Refusal
  | .next _ => none
  | .fault _ => none
  | .refused r => some r

/-- What a function row returns right after reset. -/
def returned (i : Instr) : Option FnResult := (nextOf (exec i State.reset)).map State.fnOut

/-- The value of a checked computation. -/
def okOf {α : Type} : Except Fault α → Option α
  | .ok a => some a
  | .error _ => none

/-- The instance of `95_test_vectors.md` §8.1: CAP = 1024, so F = 2. -/
def smallRing : Params := { cap := 1024 }

/-- An instance that R7 rejects. -/
def badRing : Params := { cap := 512 }

/-! ## WellFormed: an ill-formed term for each check -/

theorem test_stage_zero_ill : wellFormed .default (.stageTw 0#4) = false := by decide
theorem test_stage_nine_ill : wellFormed .default (.stageTw 9#4) = false := by decide
theorem test_butterfly_stage_low_ill : wellFormed .default (.butterfly 0#4 0#8 0#7) = false := by decide
theorem test_butterfly_stage_high_ill : wellFormed .default (.butterfly 9#4 0#8 0#7) = false := by decide
theorem test_butterfly_position_ill : wellFormed .default (.butterfly 2#4 2#8 2#7) = false := by decide
theorem test_butterfly_group_ill : wellFormed .default (.butterfly 2#4 6#8 1#7) = false := by decide
theorem test_kbounds_ill : wellFormed .default (.kbounds 0#32 300#32 8000#32) = false := by decide
theorem test_pointers_ill : wellFormed .default (.grayEnc 8) = false ∧ wellFormed .default (.grayDec 8) = false ∧
    wellFormed .default (.syncH 8) = false ∧ wellFormed .default (.syncT 8) = false := by decide
theorem test_emit_index_ill : wellFormed .default (.emitData 0#10 0xAA#8) = false ∧
    wellFormed .default (.emitData 513#10 0xBB#8) = false := by decide

/-! ## Decode: words written out from the strings of `spec/opcode_table.json`, one for each constructor at least -/

theorem test_decode_rom : decode .default (.fn .romRead) 0b101100111 = some (.romRead 359#9) := by decide
theorem test_decode_cos : decode .default (.fn .cos) 0b00111111100000000000000000000000 = some (.cos 0x3F800000#32) := by
  decide +kernel
theorem test_decode_sin : decode .default (.fn .sin) 0b10111111110010010000111111011011 = some (.sin 0xBFC90FDB#32) := by
  decide +kernel
theorem test_decode_bitrev : decode .default (.fn .bitrev) 0b11001000 = some (.bitrev 200#8) := by decide
theorem test_decode_stage : decode .default (.fn .stageTw) 0b1000 = some (.stageTw 8#4) := by decide
theorem test_decode_cmul : decode .default (.fn .cmul) 0x40400000408000003F800000C0000000 =
    some (.cmul ⟨0x40400000#32, 0x40800000#32⟩ ⟨0x3F800000#32, 0xC0000000#32⟩) := by decide +kernel
theorem test_decode_butterfly : decode .default (.fn .butterfly) 0b0011000110100000010 = some (.butterfly 3#4 26#8 2#7) := by
  decide
theorem test_decode_frame_rows : decode .default (.fn .fft) 0b10000000 = some (.fft 128#8) ∧
    decode .default (.fn .ifft) 0b10000001 = some (.ifft 129#8) ∧
    decode .default (.fn .filter) 0b11111111 = some (.filter 255#8) := by decide
theorem test_decode_index_rows : decode .default (.fn .ifftTw) 0b00000011 = some (.ifftTw 3#8) ∧
    decode .default (.fn .ifftSum) 0b00000101 = some (.ifftSum 5#8) ∧
    decode .default (.fn .mask) 0b10000001 = some (.mask 129#8) ∧
    decode .default (.fn .unpack) 0b00001111 = some (.unpack 15#8) ∧
    decode .default (.fn .pack) 0b11110000 = some (.pack 240#8) := by decide
theorem test_decode_kbounds : decode .default (.fn .kbounds) 0x00003E800000012C00001F40 =
    some (.kbounds 16000#32 300#32 8000#32) := by decide +kernel
theorem test_decode_widen : decode .default (.fn .widen) 0b0010011100010000 = some (.widen 10000#16) := by decide +kernel
theorem test_decode_narrow : decode .default (.fn .narrow) 0b01000101100110001001011010000000 =
    some (.narrow 0x45989680#32) := by decide +kernel
theorem test_decode_gray : decode .default (.fn .grayEnc) 0b110 = some (.grayEnc 6) ∧
    decode .default (.fn .grayDec) 0b101 = some (.grayDec 5) ∧ decode .default (.fn .grayDec) 0b1000 = none := by decide
theorem test_decode_sync : decode .default .syncH 0b110 = some (.syncH 6) ∧ decode .default .syncT 0b011 = some (.syncT 3) ∧
    decode .default .syncT 0b1000 = none := by decide
-- 0sc1dddddddd with s = 1, c = 0, d = 0x55
theorem test_decode_accept : decode .default .prodIn 0b010101010101 = some (.accept 1#1 0#1 0x55#8) := by decide
-- IDLE and ACCUM without an offered byte, and the unused state: no row
theorem test_decode_no_producer_row : decode .default .prodIn 0b000001010101 = none ∧
    decode .default .prodIn 0b011001010101 = none ∧ decode .default .prodIn 0b110101010101 = none ∧
    decode .default .prodIn 0b1000000000000 = none := by decide
-- 101vxxxxxxxx and 100vxxxxxxxx
theorem test_decode_commit : decode .default .prodIn 0b101111110000 = some (.commitOk 1#1 0xF0#8) ∧
    decode .default .prodIn 0b100000001111 = some (.commitBp 0#1 0x0F#8) := by decide
theorem test_decode_consumer : decode .default .consCtl 0b001 = some .dequeue ∧
    decode .default .consCtl 0b011 = some (.process 1#1) ∧ decode .default .consCtl 0b010 = some (.process 0#1) ∧
    decode .default .consCtl 0b000 = none ∧ decode .default .consCtl 0b101 = none := by decide
theorem test_decode_emit : decode .default .consOut 0b100000000000110101010 = some .emitSof ∧
    decode .default .consOut 0b100000000001100110100 = some (.emitData 1#10 0x34#8) ∧
    decode .default .consOut 0b101000000000111111111 = some (.emitData 512#10 0xFF#8) ∧
    decode .default .consOut 0b101000000001110111011 = some .emitEof := by decide
-- 0xAB at index 0, 0xBA at index 513, index 514, out_ready = 0, and a state that is not EMITTING: no row
theorem test_decode_no_emit_row : decode .default .consOut 0b100000000000110101011 = none ∧
    decode .default .consOut 0b101000000001110111010 = none ∧ decode .default .consOut 0b101000000010100000000 = none ∧
    decode .default .consOut 0b100000000001000110100 = none ∧ decode .default .consOut 0b010000000001100110100 = none := by
  decide
theorem test_decode_reset : decode .default .portRst 0b0 = some .reset ∧ decode .default .portRst 0b1 = none := by decide

/-! ## The operations -/

-- §2
theorem test_rom_read : returned (.romRead 135#9) = some (.word 0xBF3504F3#32) := by decide +kernel
-- R61
theorem test_rom_fault : faultOf (exec (.romRead 360#9) State.reset) = some .romAddress := by decide +kernel
-- §2
theorem test_cos : returned (.cos 0x447A0000#32) = some (.word 0x3F0FF87B#32) := by decide +kernel
-- §2, the i0 = 360 corner
theorem test_cos_corner : returned (.cos 0x450B03F6#32) = some (.word 0x3F7FFFFD#32) := by decide +kernel
-- §2
theorem test_sin : returned (.sin 0xC1200000#32) = some (.word 0x3F0B44C2#32) := by decide +kernel
-- §2: −π gives −0.0
theorem test_sin_negative_zero : returned (.sin 0xC0490FDB#32) = some (.word 0x80000000#32) := by decide +kernel
-- §4: rev8(1) = 128, rev8(127) = 254, rev8(200) = 19, rev8(24) = 24
theorem test_bit_reverse : (okOf (elemOf (bitReverse (List.range 256)) 1), okOf (elemOf (bitReverse (List.range 256)) 127),
    okOf (elemOf (bitReverse (List.range 256)) 200), okOf (elemOf (bitReverse (List.range 256)) 24)) =
      (some 128, some 254, some 19, some 24) := by decide +kernel
-- the arrays of calls hold no value after reset (log entry 6)
theorem test_bitrev_unwritten : faultOf (exec (.bitrev 0#8) State.reset) = some .unwrittenRead := by decide +kernel
-- §3
theorem test_stage_twiddle : returned (.stageTw 5#4) = some (.complex ⟨0x3F7B12E9#32, 0xBE47C446#32⟩) := by decide +kernel
-- §3: w_3 of stage 8
theorem test_twiddle_power : okOf (do twiddlePower (← stageTwiddle 8) 3) = some ⟨0x3F7F473A#32, 0xBD96A47E#32⟩ := by
  decide +kernel
-- §4, rows 2 and 3: the sign of zero
theorem test_cmul : returned (.cmul ⟨0x00000000#32, 0xBF800000#32⟩ ⟨0x00000000#32, 0xBF800000#32⟩) =
    some (.complex ⟨0xBF800000#32, 0x80000000#32⟩) := by decide +kernel
theorem test_cmul_zero_sign : returned (.cmul ⟨0x3F800000#32, 0x00000000#32⟩ ⟨0x40A00000#32, 0x80000000#32⟩) =
    some (.complex ⟨0x40A00000#32, 0x00000000#32⟩) := by decide +kernel

/-- Two bins of the spectrum written: X[p] and X[q]. -/
def twoBins (p q : Nat) (a b : Cplx) : State :=
  State.reset.withWork { Workspace.empty with x := writeCell (writeCell [] p a) q b }

-- §4: w = (1.0, +0.0), X[p] = (3.0, 0.0) and X[p+h] = (1.0, 0.0) give (4.0, 0.0) and (2.0, 0.0)
theorem test_butterfly : (nextOf (exec (.butterfly 3#4 8#8 0#7)
      (twoBins 8 12 ⟨0x40400000#32, 0#32⟩ ⟨0x3F800000#32, 0#32⟩))).map (fun t => (t.work.x, t.fnOut)) =
    some ([(8, ⟨0x40800000#32, 0#32⟩), (12, ⟨0x40000000#32, 0#32⟩)], .complex ⟨0x40800000#32, 0#32⟩) := by decide +kernel
-- §4: w = wm of stage 2, X[p] = (1.0, 2.0), X[p+h] = (3.0, 4.0): t = (4.0, −3.0)
theorem test_butterfly_twiddled : (nextOf (exec (.butterfly 2#4 5#8 1#7)
      (twoBins 5 7 ⟨0x3F800000#32, 0x40000000#32⟩ ⟨0x40400000#32, 0x40800000#32⟩))).map (fun t => t.work.x) =
    some [(5, ⟨0x40A00000#32, 0xBF800000#32⟩), (7, ⟨0xC0400000#32, 0x40A00000#32⟩)] := by decide +kernel
-- R24: FIN holds no value after reset
theorem test_fft_unwritten : faultOf (exec (.fft 0#8) State.reset) = some .unwrittenRead := by decide +kernel
-- §4: the last stages of the transform of DC at bin 0, from two halves of 128000.0 each
theorem test_fft_stage : okOf (butterflyPair cone ⟨0x47FA0000#32, 0#32⟩ ⟨0x47FA0000#32, 0#32⟩) =
    some (⟨0x487A0000#32, 0#32⟩, ⟨0#32, 0#32⟩) := by decide +kernel
-- §5
theorem test_phase_pair : (nextOf (exec (.ifftTw 183#8) State.reset)).map (fun t => (t.work.cosp, t.work.sinp)) =
    some ([(183, 0xBE6059FB#32)], [(183, 0xBF79C56C#32)]) := by decide +kernel
-- §5: X[1] = (256.0, 0) gives y[1] = 0x3F7FE9DB, and X[1] = (0, 256.0) gives y[1] = 0xBCC9086E; the table is §5's
theorem test_inverse_sum : okOf (ifftSum [⟨0x3F800000#32, 0#32⟩, ⟨0x3F7FE9DB#32, 0x3CC9086E#32⟩]
    [⟨0#32, 0#32⟩, ⟨0x43800000#32, 0#32⟩] 1) = some 0x3F7FE9DB#32 := by decide +kernel
theorem test_inverse_sum_imaginary : okOf (ifftSum [⟨0x3F800000#32, 0#32⟩, ⟨0x3F7FE9DB#32, 0x3CC9086E#32⟩]
    [⟨0#32, 0#32⟩, ⟨0#32, 0x43800000#32⟩] 1) = some 0xBCC9086E#32 := by decide +kernel
-- §5: X[1] = (0, 256.0) gives y[255] = 0x3CC909D4, with the phase (1 × 255) mod 256
theorem test_ifft_phase : okOf (do sumTerm fzero ⟨0#32, 0x43800000#32⟩ (← phasePair ((1 * 255) % 256))) =
    some 0x40C909D4#32 := by decide +kernel
theorem test_ifft_unwritten : faultOf (exec (.ifft 0#8) State.reset) = some .unwrittenRead := by decide +kernel
-- §6.1
theorem test_kbounds : returned (.kbounds 44100#32 300#32 10000#32) = some (.bounds 1 58) := by decide +kernel
theorem test_kbounds_exact : returned (.kbounds 16000#32 62#32 16000#32) = some (.bounds 0 256) := by decide +kernel
-- §6.1: bins 0–3 and 129–255 are zeroed with (4, 128), and no other
theorem test_mask_bins : (List.range 256).filter (masked 4 128) = List.range 4 ++ List.range' 129 127 := by decide +kernel
-- §6.1: with (128, 4) all 256
theorem test_mask_all : (List.range 256).all (masked 128 4) = true := by decide +kernel
-- §6.2
theorem test_unpack : unpackBytes [0x10#8, 0x27#8, 0xAA#8, 0xBB#8] = [10000#16, BitVec.ofInt 16 (-17494)] := by decide
theorem test_widen : returned (.widen (BitVec.ofInt 16 (-17494))) = some (.word 0xC688AC00#32) := by decide +kernel
theorem test_widen_zero : returned (.widen 0#16) = some (.word 0x00000000#32) := by decide +kernel
theorem test_narrow : returned (.narrow 0x45989680#32) = some (.sample 4882#16) := by decide +kernel
-- §6.2: −98305.5 wraps to 32767
theorem test_narrow_wraps : returned (.narrow 0xC7C000C0#32) = some (.sample 32767#16) := by decide +kernel
-- §6.2
theorem test_pack : packSamples [BitVec.ofInt 16 (-10000), 4660#16] = [0xF0#8, 0xD8#8, 0x34#8, 0x12#8] := by decide
theorem test_filter_unwritten : faultOf (exec (.filter 0#8) State.reset) = some .unwrittenRead := by decide +kernel
-- §6.3, F = 8
theorem test_gray : (List.range 8).map grayOf = [0b000, 0b001, 0b011, 0b010, 0b110, 0b111, 0b101, 0b100] := by decide
theorem test_gray_decode : returned (.grayDec 0b101) = some (.pointer 6) := by decide +kernel
-- §8.1, steps 2 and 3: hv takes hf, and frames_ready is 1
theorem test_sync_h : (nextOf (exec (.syncH 1) { State.resetOf smallRing with
      prod := { (State.resetOf smallRing).prod with hf := 1 } })).map (fun t => (t.hv, t.tv, t.framesReady, t.canCommit)) =
    some (1, 0, 1, false) := by decide +kernel
-- §8.1, steps 4 and 5: tv takes tf, and can_commit holds again
theorem test_sync_t : (nextOf (exec (.syncT 1) { State.resetOf smallRing with
      prod := { (State.resetOf smallRing).prod with hf := 1 }
      cons := { (State.resetOf smallRing).cons with tf := 1, hfSync := [1, 1] } })).map
        (fun t => (t.hv, t.tv, t.framesReady, t.canCommit)) = some (1, 1, 0, true) := by decide +kernel
-- R108: the first byte
theorem test_accept : (nextOf (exec (.accept 0#1 1#1 0x55#8) State.reset)).map
    (fun t => (t.prod.stage, t.prod.stageCnt, t.prod.state, t.inReady)) = some ([(0, 0x55#8)], 1#10, codeAccum, true) := by
  decide +kernel
-- R108: the 512th byte ends in COMMIT, where in_ready is 0
theorem test_accept_last : (nextOf (exec (.accept 1#1 1#1 0x77#8) { State.reset with
      prod := { State.reset.prod with state := codeAccum, stageCnt := 511#10 } })).map
        (fun t => (t.prod.stage, t.prod.stageCnt, t.prod.state, t.inReady)) =
    some ([(511, 0x77#8)], 512#10, codeCommit, false) := by decide +kernel
-- §8.1, step 10: bp_count becomes 1
theorem test_commit_bp : (nextOf (exec (.commitBp 0#1 0#8) { State.resetOf smallRing with
      prod := { (State.resetOf smallRing).prod with state := codeCommit, stageCnt := 512#10, tfSync := [1, 1] } })).map
        (fun t => (t.prod.state, t.prod.hf, t.cons.tf, t.prod.bpCount, t.prod.bpFlag)) =
    some (codeCommit, 0, 0, 1#32, true) := by decide +kernel
-- §8.1, step 11: the stutter
theorem test_commit_bp_again : (nextOf (exec (.commitBp 0#1 0#8) { State.resetOf smallRing with
      prod := { (State.resetOf smallRing).prod with
        state := codeCommit, stageCnt := 512#10, tfSync := [1, 1], bpCount := 1#32, bpFlag := true } })).map
        (fun t => t.prod.bpCount) = some 1#32 := by decide +kernel
-- R42 point 2: slot tf is not read while hv = tf
theorem test_unpack_unpublished : faultOf (exec (.unpack 0#8) State.reset) = some .ringOverrun := by decide +kernel
-- R99, R15: at coinciding edges at which hf_gray and tf_gray both change, both first flops take the old codes, or the new ones
theorem test_coinciding_edges : (nextOf (clkBothEdge false 0#8 false false false { State.reset with
      prod := { State.reset.prod with hf := 1 }, cons := { State.reset.cons with tf := 1 } })).map
        (fun t => (t.prod.hfGray, t.cons.tfGray, t.prod.tfSync, t.cons.hfSync)) = some (1, 1, [0, 0], [0, 0]) := by
  decide +kernel
theorem test_coinciding_edges_new : (nextOf (clkBothEdge false 0#8 false true true { State.reset with
      prod := { State.reset.prod with hf := 1 }, cons := { State.reset.cons with tf := 1 } })).map
        (fun t => (t.prod.hfGray, t.cons.tfGray, t.prod.tfSync, t.cons.hfSync)) = some (1, 1, [1, 0], [1, 0]) := by
  decide +kernel
-- R116: nothing to dequeue in §8.2's stale view
theorem test_dequeue_stale : faultOf (exec .dequeue { State.reset with prod := { State.reset.prod with hf := 1 } }) =
    some .ringOverrun := by decide +kernel

/-- CONS in EMITTING at index e, with FOUT[0] = FOUT[255] = −156 (0xFF64). -/
def emittingAt (e : BitVec 10) : State :=
  { State.reset with cons := { State.reset.cons with
      state := codeEmitting, emitIdx := e, outValid := true, fout := [(0, 0xFF64#16), (255, 0xFF64#16)] } }

-- R118
theorem test_emit_sof : (nextOf (exec .emitSof (emittingAt 0#10))).map
    (fun t => (t.emitted, t.cons.emitIdx, t.cons.outData)) = some ([0xAA#8], 1#10, 0x64#8) := by decide +kernel
theorem test_emit_low : (nextOf (exec (.emitData 1#10 0x64#8) (emittingAt 1#10))).map
    (fun t => (t.emitted, t.cons.emitIdx, t.cons.outData)) = some ([0x64#8], 2#10, 0xFF#8) := by decide +kernel
theorem test_emit_high : (nextOf (exec (.emitData 512#10 0xFF#8) (emittingAt 512#10))).map
    (fun t => (t.emitted, t.cons.emitIdx, t.cons.outData)) = some ([0xFF#8], 513#10, 0xBB#8) := by decide +kernel
theorem test_emit_eof : (nextOf (exec .emitEof (emittingAt 513#10))).map
    (fun t => (t.emitted, t.cons.emitIdx, t.cons.state, t.cons.outValid)) =
      some ([0xBB#8], 0#10, codeWaiting, false) := by decide +kernel
-- R135, R136: the registers go, the emitted bytes and the RAM stay
theorem test_reset : (nextOf (exec .reset { emittingAt 3#10 with ram := [(7, 0x42#8)], emitted := [0xAA#8] })).map
    (fun t => (t.cons.emitIdx, t.ram.length, t.ramContents 7, t.emittedBefore)) =
      some (0#10, 0, some 0x42#8, [0xAA#8]) := by decide +kernel
-- R137, R7
theorem test_elaborate : (elaborate badRing).isNone = true ∧ (elaborate smallRing).isSome = true := by decide +kernel

/-! ## The bare words of the table, run first after reset -/

theorem test_fetch_accept : (nextOf (step (State.reset.withFetchWord 12 0b000101010101))).map (fun t => t.prod.stage) =
    some [(0, 0x55#8)] := by decide +kernel
theorem test_fetch_emit : (nextOf (step (State.reset.withFetchWord 21 0b100000000001100110100))).map (fun t => t.emitted) =
    some [0x34#8] := by decide +kernel
theorem test_fetch_cos : (nextOf (step (State.reset.withFetchWord 32 0x447A0000))).map (fun t => t.fnOut) =
    some (.word 0x3F0FF87B#32) := by decide +kernel

/-! ## Witnesses: states and operands that meet the hypotheses of the statements -/

/-- 512 zero bytes: a silent frame. -/
@[irreducible] def silent : List Byte := List.replicate 512 0#8

/-- 256 bins of (+0.0, +0.0). -/
@[irreducible] def zeroBins : List Cplx := List.replicate 256 czero

theorem readRun_replicate {α : Type} (n : Nat) (v : α) :
    readRun (fullStore (List.replicate n v)) 0 n = .ok (List.replicate n v) := by
  simpa using readRun_fullStore (List.replicate n v)

theorem silent_length : silent.length = 512 := by unfold silent; exact List.length_replicate

theorem readRun_silent : readRun (fullStore silent) 0 512 = .ok silent := by
  unfold silent; exact readRun_replicate 512 0#8

/-- 256 Samples of −156. -/
@[irreducible] def loud : List Sample := List.replicate 256 0xFF64#16

theorem readRun_zeroBins : readRun (fullStore zeroBins) 0 256 = .ok zeroBins := by
  unfold zeroBins; exact readRun_replicate 256 czero

theorem readRun_loud : readRun (fullStore loud) 0 256 = .ok loud := by
  unfold loud; exact readRun_replicate 256 0xFF64#16

/-- X filled with zero bins. -/
def spectral : State := State.reset.withWork (Workspace.empty.withSpectrum zeroBins)

/-- A frame staged in COMMIT, with the head pointer at `hf` and both views at 0. -/
def stagedAt (hf : Nat) : State :=
  { State.reset with prod := { State.reset.prod with
      state := codeCommit, stageCnt := 512#10, stage := fullStore silent, hf := hf } }

/-- A frame in slot 0 that CONS knows of. -/
def ready : State :=
  { State.reset with ram := fullStore silent, cons := { State.reset.cons with hfSync := [1, 1] } }

/-- CONS in PROCESSING with a silent frame in FIN. -/
def processing : State :=
  { State.reset with cons := { State.reset.cons with state := codeProcessing, fin := fullStore silent } }

/-- A full output frame in FOUT. -/
def filled : State := { State.reset with cons := { State.reset.cons with fout := fullStore loud } }

/-- The small ring right after reset, with one event to come. -/
def waitingFor (ev : Event) : State := { State.resetOf smallRing with inbox := [ev] }

/-- The reset line at 0 for so many edges of each clock. -/
def held (lowIn lowProc : Nat) : State :=
  { State.reset with rst := { ResetUnit.asserted Params.default with lowIn := lowIn, lowProc := lowProc } }

theorem zeroBins_atMost (n : Nat) : binsAtMost n zeroBins := by
  intro z hz
  unfold zeroBins at hz
  obtain rfl := List.eq_of_mem_replicate hz
  have h : finite fzero = true ∧ funits fzero = 0 := by decide +kernel
  exact ⟨⟨h.1, by rw [show czero.re = fzero from rfl, h.2]; exact Nat.zero_le _⟩,
    ⟨h.1, by rw [show czero.im = fzero from rfl, h.2]; exact Nat.zero_le _⟩⟩

theorem finSamples_processing : processing.finSamples = .ok (unpackBytes silent) := by
  have h : readRun processing.cons.fin 0 512 = .ok silent := readRun_silent
  simp [State.finSamples, h]

theorem tailFrameBytes_ready : ready.tailFrameBytes = .ok silent := by
  refine (slotReadFrom_eq_ok _ _ _ _ _ _).2 ⟨silent_length, fun k hk => ?_⟩
  have : ramAddr ready.cfg ready.cons.tf (0 + k) = k := by
    show (0 * 512 + (0 + k)) % 4096 = k
    omega
  rw [this]
  exact readCell_fullStore silent k

theorem witness_step_runs : badRing.legal = false ∧ smallRing.legal = true ∧
    State.reset.fetch (.prod false 0x55#8) = .idle ∧
    ({ State.reset with prod := { State.reset.prod with state := codeUnused } } : State).fetch (.prod false 0#8) =
      .stop .badStateCode ∧
    State.reset.fetch (.call .stageTw 0) = .word (.fn .stageTw) 0 ∧ decode State.reset.cfg (.fn .stageTw) 0 = none ∧
    State.reset.fetch (.prod true 0x55#8) = .word .prodIn 0b001101010101 ∧
    decode State.reset.cfg .prodIn 0b001101010101 = some (.accept 0#1 1#1 0x55#8) ∧
    wellFormed State.reset.cfg (.accept 0#1 1#1 0x55#8) = true := by decide +kernel

theorem witness_prod_turn : State.reset.cfg.legal = true ∧ State.reset.prodOutOfReset = true ∧
    State.reset.prod.state = codeIdle ∧ (held 0 0).prodOutOfReset = false ∧ (held 0 0).prod.state ≠ codeUnused ∧
    (stagedAt 6).prodOutOfReset = true ∧ (stagedAt 6).prod.state = codeCommit ∧
    (stagedAt 6).canCommit = true ∧ (stagedAt 7).canCommit = false := by decide +kernel

theorem witness_cons_turn : State.reset.cons.state = codeWaiting ∧ State.reset.framesReady = 0 ∧ ready.framesReady = 1 ∧
    processing.cons.state = codeProcessing ∧ processing.consOutOfReset = true ∧ (held 0 0).consOutOfReset = false ∧
    (emittingAt 0#10).cons.state = codeEmitting ∧ okOf ((emittingAt 1#10).outByte 1) = some 0x64#8 ∧
    okOf ((emittingAt 512#10).outByte 512) = some 0xFF#8 := by decide +kernel

theorem witness_sync_turns : State.reset.cfg.legal = true ∧ State.reset.consOutOfReset = true ∧
    State.reset.prodOutOfReset = true ∧ (stagedAt 7).prod.hf < (stagedAt 7).slots ∧ State.reset.cons.tf < State.reset.slots ∧
    State.reset.cons.hfSync ≠ [] ∧ State.reset.prod.tfSync ≠ [] ∧ (held 0 0).consOutOfReset = false ∧
    (held 0 0).prodOutOfReset = false := by decide +kernel

theorem witness_function_row : isFunctionRow (.grayEnc 7) = true ∧
    ∃ t, exec (.grayEnc 7) State.reset = .next t := ⟨rfl, _, rfl⟩

theorem witness_rom_addresses : (359#9).toNat < 360 ∧ 360 ≤ (360#9).toNat := by decide

-- 2^100 and −2^100, ±0.0, an infinity and the largest finite word
theorem witness_angles : atMost 100 0x71800000#32 ∧ 0 ≤ fvalue 0x71800000#32 ∧ atMost 100 0xF1800000#32 ∧
    fvalue 0xF1800000#32 < 0 ∧ atMost 100 0x80000000#32 ∧ 0 ≤ fvalue 0x80000000#32 ∧ 0 < fvalue 0x00000001#32 ∧
    finite 0x7F800000#32 = false ∧ finite 0x7F7FFFFF#32 = true := by unfold atMost; decide +kernel

theorem witness_spectrum : spectral.work.spectrum = .ok zeroBins ∧ binsAtMost 28 zeroBins :=
  ⟨readRun_zeroBins, zeroBins_atMost 28⟩

theorem witness_stage_range : 1 ≤ (1#4).toNat ∧ (8#4).toNat ≤ 8 ∧ (0#4).toNat < 1 ∧ 8 < (9#4).toNat := by decide

-- 2^60 (1 + i), and a NaN
theorem witness_complex_operands : bothAtMost 60 ⟨0x5D800000#32, 0x5D800000#32⟩ ∧
    (finite 0x7FC00000#32 && finite fzero && finite fzero && finite fzero) = false := by
  unfold bothAtMost atMost; decide +kernel

theorem witness_butterfly : butterflyInRange 8#4 127#8 127#7 = true ∧ butterflyInRange 8#4 128#8 127#7 = false ∧
    readCell (twoBins 127 255 czero cone).work.x 127 = some czero ∧
    readCell (twoBins 127 255 czero cone).work.x (127 + 2 ^ ((8#4).toNat - 1)) = some cone ∧
    bothAtMost 60 czero ∧ bothAtMost 60 cone := by unfold bothAtMost atMost; decide +kernel

theorem witness_frame_in_fin : processing.finSamples = .ok (unpackBytes silent) ∧ processing.consOutOfReset = true ∧
    processing.cons.state = codeProcessing ∧ processing.pipe.phase = .widen ∧ processing.pipe.stageCtr = 0 ∧
    processing.pipe.blockCtr = 0 ∧ processing.pipe.indexCtr = 0 :=
  ⟨finSamples_processing, rfl, rfl, rfl, rfl, rfl, rfl⟩

theorem witness_frame_length : (List.replicate 256 (0x8000#16 : Sample)).length = 256 := List.length_replicate

theorem witness_mask_bounds : spectral.cfg.kMin = 4 ∧ spectral.cfg.kMax = 128 ∧ (1#32 : BitVec 32) ≠ 0#32 ∧ 0 < 1 := by
  decide +kernel

theorem witness_mask_answers : ∃ t, exec (.mask 4#8) spectral = .next t := by
  have h : (nextOf (exec (.mask 4#8) spectral)).isSome = true := by decide +kernel
  revert h
  cases exec (.mask 4#8) spectral with
  | next t => exact fun _ => ⟨t, rfl⟩
  | fault f => simp [nextOf]
  | refused r => simp [nextOf]

theorem witness_tail_frame : ready.tailFrameBytes = .ok silent ∧ ready.cfg.legal = true ∧ ready.consOutOfReset = true ∧
    ready.cons.state = codeWaiting ∧ 1 ≤ ready.framesReady ∧ ready.cons.dqActive = false :=
  ⟨tailFrameBytes_ready, by decide +kernel, rfl, rfl, by decide +kernel, rfl⟩

-- the largest word below 2^31, 2^31 itself, −∞
theorem witness_narrow : finite 0x4EFFFFFF#32 = true ∧ funits 0x4EFFFFFF#32 < 2 ^ 180 ∧ finite 0xCF000000#32 = true ∧
    2 ^ 180 ≤ funits 0xCF000000#32 ∧ finite 0xFF800000#32 = false := by decide +kernel

theorem witness_output_frame : filled.foutSamples = .ok loud := readRun_loud

theorem witness_even_bytes : silent.length % 2 = 0 := by decide +kernel

theorem witness_pointers : 7 < 2 ^ State.reset.cfg.fptrW ∧ 1 ≤ 3 ∧ (7 + 1) % 2 ^ 3 = 0 := by decide +kernel

-- the first byte of a frame and the last
theorem witness_accept : State.reset.inReady = true ∧ State.reset.prod.state = (0#1).setWidth 2 ∧
    ({ stagedAt 0 with prod := { (stagedAt 0).prod with state := codeAccum, stageCnt := 511#10 } } : State).inReady = true ∧
    (511#10).toNat < 512 ∧ (stagedAt 0).prod.state = codeCommit := by decide +kernel

theorem witness_commit : (stagedAt 6).cfg.legal = true ∧ (stagedAt 6).prodOutOfReset = true ∧
    (stagedAt 6).prod.state = codeCommit ∧ (stagedAt 6).prod.cphase = .check ∧ (stagedAt 6).canCommit = true ∧
    readRun (stagedAt 6).prod.stage 0 512 = .ok silent ∧
    (List.replicate 513 (Event.clkIn true 0x55#8)).length = 513 ∧ allClkIn (List.replicate 513 (Event.clkIn true 0x55#8)) :=
  ⟨by decide +kernel, rfl, rfl, rfl, by decide +kernel, readRun_silent, List.length_replicate,
    fun _ he => ⟨_, _, List.eq_of_mem_replicate he⟩⟩

-- R114: a frame begun right after reset, with room behind every code PROD can see; and for F = 2, the smallest ring
theorem witness_frame_edges : State.reset.cfg.legal = true ∧ State.reset.prodOutOfReset = true ∧
    State.reset.prod.state = codeIdle ∧ State.reset.prod.stageCnt = 0#10 ∧ roomAhead State.reset ∧
    roomAhead (State.resetOf smallRing) := by
  refine ⟨by decide +kernel, rfl, rfl, rfl, ?_, ?_⟩ <;> exact ⟨by decide +kernel, by decide +kernel⟩

theorem witness_backpressure : (stagedAt 7).prodOutOfReset = true ∧ (stagedAt 7).prod.state = codeCommit ∧
    (stagedAt 7).canCommit = false := by decide +kernel

theorem witness_processor_edges : allClkProc (List.replicate 600 (Event.clkProc false)) :=
  fun _ he => ⟨_, List.eq_of_mem_replicate he⟩

-- each row at its boundary index
theorem witness_emit : (emittingAt 0#10).consOutOfReset = true ∧ (emittingAt 0#10).cons.state = codeEmitting ∧
    (emittingAt 0#10).cons.emitIdx = 0#10 ∧ 1 ≤ (emittingAt 1#10).cons.emitIdx.toNat ∧
    readCell (emittingAt 1#10).cons.fout ((1 - 1) / 2) = some 0xFF64#16 ∧ (emittingAt 512#10).cons.emitIdx.toNat ≤ 512 ∧
    readCell (emittingAt 512#10).cons.fout ((512 - 1) / 2) = some 0xFF64#16 ∧
    (emittingAt 513#10).cons.emitIdx = 513#10 := by decide +kernel

theorem witness_reset : rising ready.ram = true ∧ ready.cfg.legal = true :=
  ⟨rising_fullStore silent, by decide +kernel⟩

-- the line falls, stays low, and rises after two edges (too early) or three
theorem witness_reset_line : (waitingFor (.rstN false)).cfg.legal = true ∧ (waitingFor (.rstN false)).rst.rstN = true ∧
    (held 3 3).cfg.legal = true ∧ (held 3 3).rst.rstN = false ∧ (held 3 3).cfg.syncStages + 1 ≤ (held 3 3).rst.lowIn ∧
    (held 3 2).rst.lowProc ≤ (held 3 2).cfg.syncStages ∧
    ({ held 3 3 with rst := { (held 3 3).rst with rstN := true } } : State).rst.inSync =
      List.replicate (held 3 3).cfg.syncStages false ∧
    [Event.clkIn false 0#8, Event.clkIn true 1#8].length ≤ (held 3 3).cfg.syncStages ∧
    [Event.clkProc false, Event.clkProc true].length ≤ (held 3 3).cfg.syncStages := by decide +kernel

theorem witness_unreachable :
    ({ State.reset with prod := { State.reset.prod with stageCnt := 512#10 } } : State).inReady = true ∧
    State.reset.prod.state = (0#1).setWidth 2 ∧ 513 < (emittingAt 514#10).cons.emitIdx.toNat ∧
    (stagedAt 7).canCommit = false ∧ State.reset.framesReady = 0 ∧
    readCell ({ stagedAt 0 with prod := { (stagedAt 0).prod with stage := [] } } : State).prod.stage 511 = none ∧
    readCell ({ ready with ram := [] } : State).ram (ramAddr ready.cfg ready.cons.tf 511) = none ∧
    readCell ({ processing with cons := { processing.cons with fin := [] } } : State).cons.fin 0 = none ∧
    readCell (emittingAt 3#10).cons.fout ((3 - 1) / 2) = none := by decide +kernel

-- the least and the greatest finite word, and a divisor that is not zero
theorem witness_binary32 : finite 0x00000001#32 = true ∧ finite 0x7F7FFFFF#32 = true ∧ finite 0xFF7FFFFF#32 = true ∧
    fvalue 0x00000001#32 ≠ 0 := by decide +kernel

theorem witness_next_step : ∃ t, step (waitingFor (.prod true 0x12#8)) = .next t := ⟨_, rfl⟩

theorem witness_stores : StoresCanonical (waitingFor (.prod true 0x12#8)) := by
  constructor <;> rfl

theorem witness_control : ControlInv (waitingFor (.prod true 0x12#8)) := by
  constructor <;> decide

theorem witness_ring : RingInv (waitingFor (.prod true 0x12#8)) := by
  refine ⟨0, 0, [0, 0, 0], [0, 0, 0], ?_⟩
  constructor <;> decide +kernel

theorem witness_stream : StreamInv (waitingFor (.prod true 0x12#8)) := by
  refine ⟨0, 0, [0, 0, 0], [0, 0, 0], [], ?_⟩
  constructor
  · exact witness_control
  · constructor <;> decide +kernel
  · rfl
  · exact fun i hi => absurd hi (Nat.not_lt_zero i)
  · exact fun h => absurd h (by decide)
  · exact fun c _ hc => absurd hc (Nat.not_lt_zero c)
  · exact fun j out h => nomatch h
  · exact fun h => absurd h (by decide)
  · exact fun _ => ⟨rfl, rfl⟩
  · exact fun h => absurd h (by decide)
  · exact fun h => absurd h (by decide)

theorem witness_no_stop : (waitingFor (.prod true 0x12#8)).cfg.legal = true ∧ Event.isTurn (.prod true 0x12#8) = true ∧
    Event.isEdge (.clkBoth true 0x12#8 true false true) = true ∧ Event.isEdge (.rstN false) = true := by decide +kernel

theorem witness_commit_step : (stagedAt 7).prod.state = codeCommit ∧
    ∃ t, step { stagedAt 7 with inbox := [.prod true 0x55#8] } = .next t := ⟨rfl, _, rfl⟩

theorem witness_edges : (∃ t, step (waitingFor (.clkIn true 0x12#8)) = .next t) ∧
    ∃ t, step (waitingFor (.clkProc true)) = .next t := ⟨⟨_, rfl⟩, _, rfl⟩

-- a failed CHECK, watched for one edge and for RETRY_WAIT + 1
theorem witness_failed_check : (stagedAt 7).cfg.legal = true ∧ (stagedAt 7).prodOutOfReset = true ∧
    (stagedAt 7).prod.cphase = .check ∧ (stagedAt 7).canCommit = false ∧
    [Event.clkIn true 0#8].length ≤ (stagedAt 7).cfg.retryWait + 1 ∧
    (List.replicate 9 (Event.clkIn true 0#8)).length = (stagedAt 7).cfg.retryWait + 1 := by decide +kernel

/-- CONS in PROCESSING or in a dequeue copy, with edges still to pass. -/
def stalling (code : BitVec 2) : State :=
  { State.reset with
    cons := { State.reset.cons with state := code, dqActive := code == codeWaiting }
    pipe := { State.reset.pipe with stall := 1 } }

-- edges that transfer nothing: each kind, in a legal instance out of reset
theorem witness_stutters : State.reset.cfg.legal = true ∧ State.reset.inReady = true ∧ State.reset.consOutOfReset = true ∧
    State.reset.cons.state = codeWaiting ∧ State.reset.cons.dqActive = false ∧ State.reset.framesReady = 0 ∧
    (emittingAt 1#10).cfg.legal = true ∧ (emittingAt 1#10).cons.state = codeEmitting ∧
    (stalling codeWaiting).cons.dqActive = true ∧ (stalling codeWaiting).consOutOfReset = true ∧
    (stalling codeProcessing).cons.state = codeProcessing ∧ 0 < (stalling codeProcessing).pipe.stall := by decide +kernel

-- the edges of R99: out of reset with chains that hold flops, and in reset
theorem witness_crossing_edges : State.reset.prodOutOfReset = true ∧ State.reset.prod.tfSync ≠ [] ∧
    State.reset.consOutOfReset = true ∧ State.reset.cons.hfSync ≠ [] ∧ (held 3 3).prodOutOfReset = false ∧
    (held 3 3).consOutOfReset = false := by decide +kernel

-- R6 and R7: the least legal instance, and one instance for each of the five rejections
theorem witness_instances : ({ smallRing with sampleRateHz := 1, lowCutoffHz := 0, highCutoffHz := 0, retryWait := 0 } : Params).legal = true ∧
    ({ frameLen := 255 } : Params).rejected = true ∧ ({ cap := 3000 } : Params).rejected = true ∧
    badRing.rejected = true ∧ ({ sampleRateHz := 0 } : Params).rejected = true ∧ ({ syncStages := 1 } : Params).rejected = true ∧
    smallRing.rejected = false ∧ ({ retryWait := 65536 } : Params).legal = false := by decide +kernel

-- a byte offered and taken, and a byte offered and not taken
theorem witness_handshake : ControlInv (emittingAt 1#10) ∧ (emittingAt 1#10).consOutOfReset = true ∧
    (emittingAt 1#10).cons.outValid = true := by
  refine ⟨?_, by decide +kernel, rfl⟩
  constructor <;> decide

/-- CONS in EMITTING at index e with the byte b offered. -/
def offering (e : BitVec 10) (b : Byte) : State :=
  { emittingAt e with cons := { (emittingAt e).cons with outData := b } }

-- the transfer edges of the first byte and of the last
theorem witness_transfer : (offering 0#10 0xAA#8).cfg.legal = true ∧ (offering 0#10 0xAA#8).consOutOfReset = true ∧
    okOf ((offering 0#10 0xAA#8).outByte 0) = some (offering 0#10 0xAA#8).cons.outData ∧
    okOf ((offering 0#10 0xAA#8).outByte 1) = some 0x64#8 ∧
    okOf ((offering 513#10 0xBB#8).outByte 513) = some (offering 513#10 0xBB#8).cons.outData ∧
    State.reset.inReady = true ∧ State.reset.prod.stageCnt.toNat < 512 := by decide +kernel

-- R42 point 2: nothing published
theorem witness_unpublished : State.reset.cfg.legal = true ∧ State.reset.cons.tf < State.reset.slots ∧
    State.reset.hv = State.reset.cons.tf := by decide +kernel

end Sys2Proof.Tests
end

section
/-! Which parameters are legal, what KBOUNDS answers, and how a step runs what it fetched. -/

namespace Sys2Proof.Machine

/-! ## The parameters -/

theorem legal_iff (p : Params) :
    p.legal = true ↔ p.frameLen = 256 ∧ (∃ k, p.cap = 2 ^ k) ∧ 1024 ≤ p.cap ∧
      1 ≤ p.sampleRateHz ∧ p.sampleRateHz ≤ 2 ^ 24 - 1 ∧ p.lowCutoffHz ≤ 2 ^ 24 - 1 ∧ p.highCutoffHz ≤ 2 ^ 24 - 1 ∧
      2 ≤ p.syncStages ∧ p.retryWait ≤ 65535 := by
  simp only [Params.legal, Bool.and_eq_true, beq_iff_eq, decide_eq_true_eq, isPowerOfTwo_iff, and_assoc]

theorem rejected_iff (p : Params) :
    p.rejected = true ↔ p.frameLen ≠ 256 ∨ (¬ ∃ k, p.cap = 2 ^ k) ∨ p.cap ≤ 512 ∨ p.sampleRateHz = 0 ∨
      p.syncStages < 2 := by
  simp only [Params.rejected, Bool.or_eq_true, bne_iff_ne, ne_eq, beq_iff_eq, decide_eq_true_eq, or_assoc,
    Bool.not_eq_true', ← Bool.not_eq_true, isPowerOfTwo_iff]

/-- R7 takes nothing from R6: what R7 rejects is outside its ranges. -/
theorem not_legal_of_rejected (p : Params) (h : p.rejected = true) : p.legal = false := by
  rw [← Bool.not_eq_true, legal_iff]
  rintro ⟨frame, power, cap, rate, -, -, -, sync, -⟩
  obtain h | h | h | h | h := (rejected_iff p).1 h
  · exact h frame
  · exact h power
  all_goals omega

/-! ## How a step runs -/

theorem step_illegal (s : State) (h : s.cfg.legal = false) : step s = .refused .elabRejected := by simp [step, h]

theorem step_empty (s : State) (h : s.cfg.legal = true) (hi : s.inbox = []) : step s = .next s := by simp [step, h, hi]

theorem step_event (s : State) (ev : Event) (rest : List Event) (h : s.cfg.legal = true) (hi : s.inbox = ev :: rest) :
    step s = runEvent ev { s with inbox := rest } := by simp [step, h, hi]

/-- What an event asks for does not depend on the events behind it. -/
@[simp] theorem fetch_inbox (s : State) (l : List Event) (ev : Event) :
    ({ s with inbox := l } : State).fetch ev = s.fetch ev := by cases ev <;> rfl

theorem step_turn (s : State) (ev : Event) (rest : List Event) (h : s.cfg.legal = true) (hi : s.inbox = ev :: rest)
    (hc : ev.isCycle = false) : step s = runFetched (s.fetch ev) { s with inbox := rest } := by
  simp [step_event s ev rest h hi, runEvent, hc]

/-- Settles O3: each clause is one branch of `step`, `runEvent` or `runFetched`. -/
theorem stepRunsTheDecodedOperation : Obligations.StepRunsTheDecodedOperation := by
  refine ⟨fun p => ⟨legal_iff p, rejected_iff p, fun h => ⟨not_legal_of_rejected p h, by simp [elaborate, h]⟩,
    fun h => by simp [elaborate, h]⟩, by decide, step_illegal, step_empty, ?_, ?_⟩
  · intro s ev rest hl hi hc
    simp [step_event s ev rest hl hi, runEvent, hc]
  · intro s ev rest hl hi hc
    rw [step_turn s ev rest hl hi hc]
    refine ⟨fun hf => ?_, fun f hf => ?_, fun src w hf hd => ?_, fun src w i hf hd _ => ?_⟩
    · rw [hf]; rfl
    · rw [hf]; rfl
    · rw [hf]; simp [runFetched, hd]
    · rw [hf]; simp [runFetched, hd]

/-! ## KBOUNDS -/

/-- The bin of a cutoff frequency is the floor of f / (SR / 256). -/
theorem binOf_floor (rate cutoff : Nat) (h : 0 < rate) :
    binOf rate cutoff * rate ≤ cutoff * 256 ∧ cutoff * 256 < (binOf rate cutoff + 1) * rate :=
  ⟨Nat.div_mul_le_self _ _, Nat.lt_mul_of_div_lt (Nat.lt_succ_self _) h⟩

/-- Settles O22: both bounds are `binOf`, a floor division. -/
theorem maskBoundsAreExactFloors : Obligations.MaskBoundsAreExactFloors := by
  intro r l h s
  refine ⟨fun hr => ?_, fun hr => by simp [exec, execKbounds, hr]⟩
  have hpos : 0 < r.toNat := by
    rw [Nat.pos_iff_ne_zero]
    exact fun h0 => hr (BitVec.eq_of_toNat_eq (by simpa using h0))
  obtain ⟨low, low'⟩ := binOf_floor r.toNat l.toNat hpos
  obtain ⟨high, high'⟩ := binOf_floor r.toNat h.toNat hpos
  exact ⟨_, _, by simp [exec, execKbounds, hr], low, low', high, high'⟩

end Sys2Proof.Machine
end

section
/-! One lemma per phase that says what an operation of the sequencer is (R70 to R95, R120), what the operations leave unchanged,
and that they read only the parameters, FIN, FOUT and the pipeline's own registers. -/

namespace Sys2Proof.Machine

/-! ## One operation of the sequencer -/

theorem pipeOp_widen (s t : State) (h : s.pipe.phase = .widen) :
    pipeOp s = .ok t ↔ ∃ q z, s.finSample s.pipe.indexCtr = .ok q ∧ widenComplex q = .ok z ∧
      ({ s with pipe := { s.pipe with x := writeCell s.pipe.x s.pipe.indexCtr z } } : State).nextIndex .bitrev 0 = t := by
  simp [pipeOp, h, bind_eq_ok, map_eq_ok]

theorem pipeOp_bitrev (s t : State) (h : s.pipe.phase = .bitrev) :
    pipeOp s = .ok t ↔ ∃ x, s.pipe.spectrum = .ok x ∧
      ({ s with pipe := { s.pipe with
        toWorkspace := s.pipe.toWorkspace.withSpectrum (bitReverse x) } } : State).atPhase .stages 1 = t := by
  simp [pipeOp, h, map_eq_ok]

theorem pipeOp_stages (s t : State) (h : s.pipe.phase = .stages) :
    pipeOp s = .ok t ↔ ∃ wm w even odd r, stageTwiddle s.pipe.stageCtr = .ok wm ∧
      twiddlePower wm s.pipe.indexCtr = .ok w ∧
      readElem s.pipe.x (s.pipe.blockCtr + s.pipe.indexCtr) = .ok even ∧
      readElem s.pipe.x (s.pipe.blockCtr + s.pipe.indexCtr + 2 ^ (s.pipe.stageCtr - 1)) = .ok odd ∧
      butterflyPair w even odd = .ok r ∧
      ({ s with pipe := { s.pipe with
        x := writeCell (writeCell s.pipe.x (s.pipe.blockCtr + s.pipe.indexCtr) r.1)
          (s.pipe.blockCtr + s.pipe.indexCtr + 2 ^ (s.pipe.stageCtr - 1)) r.2 } } : State).nextButterfly = t := by
  simp only [pipeOp, h, bind_eq_ok, pure_eq_ok]
  constructor
  · rintro ⟨wm, hwm, w, hw, even, he, odd, ho, r, hr, ht⟩
    exact ⟨wm, w, even, odd, r, hwm, hw, he, ho, hr, ht⟩
  · rintro ⟨wm, w, even, odd, r, hwm, hw, he, ho, hr, ht⟩
    exact ⟨wm, hwm, w, hw, even, he, odd, ho, r, hr, ht⟩

theorem pipeOp_mask (s t : State) (h : s.pipe.phase = .mask) :
    pipeOp s = .ok t ↔
      ({ s with pipe := { s.pipe with
        x := if masked s.cfg.kMin s.cfg.kMax s.pipe.indexCtr then writeCell s.pipe.x s.pipe.indexCtr czero
          else s.pipe.x } } : State).nextIndex .phases 0 = t := by
  simp only [pipeOp, h]
  split
  · simp
  · rw [Except.ok.injEq, ← h]

theorem pipeOp_phases (s t : State) (h : s.pipe.phase = .phases) :
    pipeOp s = .ok t ↔ ∃ c, phasePair s.pipe.indexCtr = .ok c ∧
      ({ s with pipe := { s.pipe with
        cosp := writeCell s.pipe.cosp s.pipe.indexCtr c.re
        sinp := writeCell s.pipe.sinp s.pipe.indexCtr c.im } } : State).nextIndex .sums 0 = t := by
  simp [pipeOp, h, map_eq_ok]

theorem pipeOp_sums (s t : State) (h : s.pipe.phase = .sums) :
    pipeOp s = .ok t ↔ ∃ cs sn x v, readRun s.pipe.cosp 0 256 = .ok cs ∧ readRun s.pipe.sinp 0 256 = .ok sn ∧
      s.pipe.spectrum = .ok x ∧ ifftSum (List.zipWith Cplx.mk cs sn) x s.pipe.indexCtr = .ok v ∧
      ({ s with pipe := { s.pipe with y := writeCell s.pipe.y s.pipe.indexCtr v } } : State).nextIndex .narrow 0 = t := by
  simp only [pipeOp, h, bind_eq_ok, pure_eq_ok]
  constructor
  · rintro ⟨cs, hc, sn, hs, x, hx, v, hv, ht⟩
    exact ⟨cs, sn, x, v, hc, hs, hx, hv, ht⟩
  · rintro ⟨cs, sn, x, v, hc, hs, hx, hv, ht⟩
    exact ⟨cs, hc, sn, hs, x, hx, v, hv, ht⟩

theorem pipeOp_narrow (s t : State) (h : s.pipe.phase = .narrow) :
    pipeOp s = .ok t ↔ ∃ y v, readElem s.pipe.y s.pipe.indexCtr = .ok y ∧ narrowWord y = .ok v ∧
      (let u := ({ s with cons := { s.cons with fout := writeCell s.cons.fout s.pipe.indexCtr v } } : State).nextIndex .widen 0
       if s.pipe.indexCtr < 255 then u else u.processPublished) = t := by
  by_cases hi : s.pipe.indexCtr < 255 <;> simp only [pipeOp, h, bind_eq_ok, hi, if_true, if_false, pure_eq_ok]
  all_goals exact ⟨fun ⟨y, hy, v, hv, ht⟩ => ⟨y, v, hy, hv, ht⟩, fun ⟨y, v, hy, hv, ht⟩ => ⟨y, hy, v, hv, ht⟩⟩

/-- `t` differs from `s` in the pipeline's storage, FOUT and what CONS offers only: all that the sequencer writes (R16, R117). -/
structure PipelineOnly (s t : State) : Prop where
  cfg : t.cfg = s.cfg
  prod : t.prod = s.prod
  ram : t.ram = s.ram
  rst : t.rst = s.rst
  inLog : t.inLog = s.inLog
  emitted : t.emitted = s.emitted
  cons : t.cons = { s.cons with
    fout := t.cons.fout, state := t.cons.state, emitIdx := t.cons.emitIdx, outData := t.cons.outData,
    outValid := t.cons.outValid }

theorem PipelineOnly.refl (s : State) : PipelineOnly s s := ⟨rfl, rfl, rfl, rfl, rfl, rfl, rfl⟩

theorem PipelineOnly.trans {s t u : State} (h : PipelineOnly s t) (k : PipelineOnly t u) : PipelineOnly s u :=
  ⟨k.cfg.trans h.cfg, k.prod.trans h.prod, k.ram.trans h.ram, k.rst.trans h.rst, k.inLog.trans h.inLog,
    k.emitted.trans h.emitted, by rw [k.cons, h.cons]⟩

theorem pipeOp_pipelineOnly {s t : State} (h : pipeOp s = .ok t) : PipelineOnly s t := by
  cases hp : s.pipe.phase with
  | widen => obtain ⟨_, _, -, -, rfl⟩ := (pipeOp_widen s t hp).1 h; constructor <;> simp
  | bitrev => obtain ⟨_, -, rfl⟩ := (pipeOp_bitrev s t hp).1 h; constructor <;> simp
  | stages => obtain ⟨_, _, _, _, _, -, -, -, -, -, rfl⟩ := (pipeOp_stages s t hp).1 h; constructor <;> simp
  | mask => obtain rfl := (pipeOp_mask s t hp).1 h; constructor <;> simp
  | phases => obtain ⟨_, -, rfl⟩ := (pipeOp_phases s t hp).1 h; constructor <;> simp
  | sums => obtain ⟨_, _, _, _, -, -, -, -, rfl⟩ := (pipeOp_sums s t hp).1 h; constructor <;> simp
  | narrow =>
    obtain ⟨_, _, -, -, rfl⟩ := (pipeOp_narrow s t hp).1 h
    dsimp only
    split <;> constructor <;> simp

/-- Only the last loop touches FOUT and ends PROCESSING. -/
theorem pipeOp_cons {s t : State} (h : pipeOp s = .ok t) (hp : s.pipe.phase ≠ .narrow) : t.cons = s.cons := by
  cases ph : s.pipe.phase with
  | widen => obtain ⟨_, _, -, -, rfl⟩ := (pipeOp_widen s t ph).1 h; simp
  | bitrev => obtain ⟨_, -, rfl⟩ := (pipeOp_bitrev s t ph).1 h; simp
  | stages => obtain ⟨_, _, _, _, _, -, -, -, -, -, rfl⟩ := (pipeOp_stages s t ph).1 h; simp
  | mask => obtain rfl := (pipeOp_mask s t ph).1 h; simp
  | phases => obtain ⟨_, -, rfl⟩ := (pipeOp_phases s t ph).1 h; simp
  | sums => obtain ⟨_, _, _, _, -, -, -, -, rfl⟩ := (pipeOp_sums s t ph).1 h; simp
  | narrow => exact absurd ph hp

/-! ## Operations in a row -/

theorem pipeOps_rest (n : Nat) (s : State) (h : s.cons.state ≠ codeProcessing) : pipeOps n s = .ok s := by
  cases n <;> simp [pipeOps, h]

/-- What every operation keeps, any number of them keeps. -/
theorem pipeOps_keeps {I : State → Prop}
    (keep : ∀ s t, s.cons.state = codeProcessing → pipeOp s = .ok t → I s → I t) (n : Nat) {s t : State}
    (h : pipeOps n s = .ok t) (hs : I s) : I t := by
  induction n generalizing s with
  | zero => cases h; exact hs
  | succ n ih =>
    simp only [pipeOps] at h
    split at h
    next hp =>
      obtain ⟨u, hu, hn⟩ := (bind_eq_ok _ _ _).1 h
      exact ih hn (keep s u hp hu hs)
    next => cases h; exact hs

theorem pipeOps_pipelineOnly {n : Nat} {s t : State} (h : pipeOps n s = .ok t) : PipelineOnly s t :=
  pipeOps_keeps (I := PipelineOnly s) (fun _ _ _ hv hu => hu.trans (pipeOp_pipelineOnly hv)) n h (.refl s)

theorem pipeOps_add (n m : Nat) {s t u : State} (hn : pipeOps n s = .ok t) (hm : pipeOps m t = .ok u) :
    pipeOps (n + m) s = .ok u := by
  induction n generalizing s with
  | zero => cases hn; simpa using hm
  | succ n ih =>
    rw [Nat.add_right_comm]
    simp only [pipeOps] at hn ⊢
    split at hn
    next hp =>
      obtain ⟨v, hv, hn⟩ := (bind_eq_ok _ _ _).1 hn
      rw [if_pos hp]
      exact (bind_eq_ok _ _ _).2 ⟨v, hv, ih hn⟩
    next hp =>
      cases hn
      rw [if_neg hp, ← hm, pipeOps_rest m _ hp]

/-! ## What the sequencer reads -/

/-- Two states agree in all that the sequencer reads and writes before its end. -/
structure SameRun (a b : State) : Prop where
  cfg : a.cfg = b.cfg
  state : a.cons.state = b.cons.state
  fin : a.cons.fin = b.cons.fin
  fout : a.cons.fout = b.cons.fout
  pipe : a.pipe = { b.pipe with stall := a.pipe.stall }

namespace SameRun

variable {a b : State}

theorem nextIndex (h : SameRun a b) (ph : PipePhase) (n : Nat) : SameRun (a.nextIndex ph n) (b.nextIndex ph n) := by
  have hi : a.pipe.indexCtr = b.pipe.indexCtr := by rw [h.pipe]
  refine ⟨by simp [h.cfg], by simp [h.state], by simp [h.fin], by simp [h.fout], ?_⟩
  simp only [State.nextIndex, hi]
  split <;> simp only [State.atPhase] <;> rw [h.pipe]

theorem nextButterfly (h : SameRun a b) : SameRun a.nextButterfly b.nextButterfly := by
  have hi : a.pipe.indexCtr = b.pipe.indexCtr := by rw [h.pipe]
  have hb : a.pipe.blockCtr = b.pipe.blockCtr := by rw [h.pipe]
  have hs : a.pipe.stageCtr = b.pipe.stageCtr := by rw [h.pipe]
  refine ⟨by simp [h.cfg], by simp [h.state], by simp [h.fin], by simp [h.fout], ?_⟩
  simp only [State.nextButterfly, hi, hb, hs]
  (repeat' split) <;> simp only [State.atPhase] <;> rw [h.pipe]

/-- The same change of the pipeline's storage keeps the agreement. -/
theorem store (h : SameRun a b) (f : Workspace → Workspace) :
    SameRun { a with pipe := { a.pipe with toWorkspace := f a.pipe.toWorkspace } }
      { b with pipe := { b.pipe with toWorkspace := f b.pipe.toWorkspace } } :=
  ⟨h.cfg, h.state, h.fin, h.fout, by dsimp only; rw [h.pipe]⟩

/-- The sequencer's operation answers alike in states that agree. -/
theorem pipeOp (h : SameRun a b) {a' : State} (ha : pipeOp a = .ok a') :
    ∃ b', Machine.pipeOp b = .ok b' ∧ SameRun a' b' := by
  have hi : a.pipe.indexCtr = b.pipe.indexCtr := by rw [h.pipe]
  have hb : a.pipe.blockCtr = b.pipe.blockCtr := by rw [h.pipe]
  have hs : a.pipe.stageCtr = b.pipe.stageCtr := by rw [h.pipe]
  have hw : a.pipe.toWorkspace = b.pipe.toWorkspace := by rw [h.pipe]
  have hp : a.pipe.phase = b.pipe.phase := by rw [h.pipe]
  cases ph : a.pipe.phase with
  | widen =>
    obtain ⟨q, z, hq, hz, rfl⟩ := (pipeOp_widen a a' ph).1 ha
    refine ⟨_, (pipeOp_widen b _ (hp ▸ ph)).2 ⟨q, z, ?_, hz, rfl⟩, ?_⟩
    · rw [← hi, ← hq, State.finSample, State.finSample, h.fin]
    · rw [← hi]
      exact (h.store fun w => { w with x := writeCell w.x a.pipe.indexCtr z }).nextIndex _ _
  | bitrev =>
    obtain ⟨x, hx, rfl⟩ := (pipeOp_bitrev a a' ph).1 ha
    refine ⟨_, (pipeOp_bitrev b _ (hp ▸ ph)).2 ⟨x, by rw [← hw]; exact hx, rfl⟩, ?_⟩
    exact ⟨by simp [h.cfg], by simp [h.state], by simp [h.fin], by simp [h.fout], by simp only [State.atPhase]; rw [hw]⟩
  | stages =>
    obtain ⟨wm, w, e, o, r, hwm, hpow, he, ho, hr, rfl⟩ := (pipeOp_stages a a' ph).1 ha
    refine ⟨_, (pipeOp_stages b _ (hp ▸ ph)).2 ⟨wm, w, e, o, r, hs ▸ hwm, hi ▸ hpow, ?_, ?_, hr, rfl⟩, ?_⟩
    · rw [← hi, ← hb, ← hw]; exact he
    · rw [← hi, ← hb, ← hw, ← hs]; exact ho
    · rw [← hi, ← hb, ← hs]
      exact (h.store fun v => { v with
        x := (writeCell (writeCell v.x (a.pipe.blockCtr + a.pipe.indexCtr) r.1)
          (a.pipe.blockCtr + a.pipe.indexCtr + 2 ^ (a.pipe.stageCtr - 1)) r.2) }).nextButterfly
  | mask =>
    obtain rfl := (pipeOp_mask a a' ph).1 ha
    refine ⟨_, (pipeOp_mask b _ (hp ▸ ph)).2 rfl, ?_⟩
    have k := h.store fun w => { w with
      x := (if masked a.cfg.kMin a.cfg.kMax a.pipe.indexCtr then writeCell w.x a.pipe.indexCtr czero else w.x) }
    simpa only [h.cfg, hi] using k.nextIndex .phases 0
  | phases =>
    obtain ⟨c, hc, rfl⟩ := (pipeOp_phases a a' ph).1 ha
    refine ⟨_, (pipeOp_phases b _ (hp ▸ ph)).2 ⟨c, hi ▸ hc, rfl⟩, ?_⟩
    rw [← hi]
    exact (h.store fun w => { w with
      cosp := writeCell w.cosp a.pipe.indexCtr c.re, sinp := writeCell w.sinp a.pipe.indexCtr c.im }).nextIndex _ _
  | sums =>
    obtain ⟨cs, sn, x, v, hcs, hsn, hx, hv, rfl⟩ := (pipeOp_sums a a' ph).1 ha
    refine ⟨_, (pipeOp_sums b _ (hp ▸ ph)).2 ⟨cs, sn, x, v, hw ▸ hcs, hw ▸ hsn, hw ▸ hx, hi ▸ hv, rfl⟩, ?_⟩
    rw [← hi]
    exact (h.store fun w => { w with y := writeCell w.y a.pipe.indexCtr v }).nextIndex _ _
  | narrow =>
    obtain ⟨y, v, hy, hv, rfl⟩ := (pipeOp_narrow a a' ph).1 ha
    refine ⟨_, (pipeOp_narrow b _ (hp ▸ ph)).2 ⟨y, v, ?_, hv, rfl⟩, ?_⟩
    · rw [← hi, ← hw]; exact hy
    · have k : SameRun { a with cons := { a.cons with fout := writeCell a.cons.fout a.pipe.indexCtr v } }
          { b with cons := { b.cons with fout := writeCell b.cons.fout a.pipe.indexCtr v } } :=
        ⟨h.cfg, h.state, h.fin, by dsimp only; rw [h.fout], h.pipe⟩
      have k' := k.nextIndex .widen 0
      rw [← hi]
      dsimp only
      split
      · exact k'
      · exact ⟨k'.cfg, rfl, k'.fin, k'.fout, k'.pipe⟩

theorem pipeOps (n : Nat) (h : SameRun a b) {a' : State} (ha : pipeOps n a = .ok a') :
    ∃ b', Machine.pipeOps n b = .ok b' ∧ SameRun a' b' := by
  induction n generalizing a b with
  | zero => cases ha; exact ⟨b, rfl, h⟩
  | succ n ih =>
    simp only [Machine.pipeOps] at ha ⊢
    rw [h.state] at ha
    split at ha
    next hp =>
      obtain ⟨u, hu, hn⟩ := (bind_eq_ok _ _ _).1 ha
      obtain ⟨v, hv, huv⟩ := h.pipeOp hu
      obtain ⟨b', hb', same⟩ := ih huv hn
      exact ⟨b', by rw [if_pos hp]; exact (bind_eq_ok _ _ _).2 ⟨v, hv, hb'⟩, same⟩
    next hp => cases ha; exact ⟨b, by rw [if_neg hp], h⟩

end SameRun

end Sys2Proof.Machine
end

section
/-! Everything a step can do, said once: the moves of PROD and of CONS, at a turn or at an edge, and how a step puts them
together. A proof about every step is a case split over these moves. -/

namespace Sys2Proof.Machine

/-! ## Function rows -/

/-- A function row that answers changes the arrays of `State.work` and the returned value only (R58, log entry 6). -/
theorem exec_functionRow (i : Instr) (s t : State) (hi : isFunctionRow i = true) (h : exec i s = .next t) :
    ∃ w r, t = (s.withWork w).returning r := by
  have returns (r : FnResult) : s.returning r = (s.withWork s.work).returning r := rfl
  cases i
  case syncH | syncT | accept | commitOk | commitBp | dequeue | process | emitSof | emitData | emitEof | reset =>
    simp [isFunctionRow] at hi
  case unpack =>
    obtain ⟨-, _, _, -, -, rfl⟩ := (execUnpack_eq_next _ _ _).1 h
    exact ⟨_, _, returns _⟩
  case kbounds | grayEnc | grayDec =>
    simp only [exec, execKbounds, execGrayEnc, execGrayDec] at h
    split at h <;> cases h
    exact ⟨_, _, returns _⟩
  case stageTw =>
    simp only [exec, execStageTw] at h
    split at h
    · simp only [finish_eq_next, bind_eq_ok, pure_eq_ok] at h
      obtain ⟨_, -, rfl⟩ := h
      exact ⟨_, _, returns _⟩
    · cases h
  case butterfly =>
    simp only [exec, execButterfly] at h
    split at h
    · simp only [finish_eq_next, bind_eq_ok, pure_eq_ok] at h
      obtain ⟨_, -, _, -, _, -, _, -, _, -, rfl⟩ := h
      exact ⟨_, _, rfl⟩
    · cases h
  case romRead | cos | sin | cmul | widen | narrow =>
    simp only [exec, execRomRead, execCos, execSin, execCmul, execWiden, execNarrow, finish_eq_next, bind_eq_ok,
      pure_eq_ok] at h
    obtain ⟨_, -, rfl⟩ := h
    exact ⟨_, _, returns _⟩
  case pack =>
    simp only [exec, execPack, finish_eq_next, bind_eq_ok, pure_eq_ok] at h
    obtain ⟨_, -, _, -, _, -, rfl⟩ := h
    exact ⟨_, _, returns _⟩
  case ifftTw =>
    simp only [exec, execIfftTw, finish_eq_next, bind_eq_ok, pure_eq_ok] at h
    obtain ⟨_, -, rfl⟩ := h
    exact ⟨_, _, rfl⟩
  case bitrev | mask =>
    simp only [exec, execBitrev, execMask, finish_eq_next, bind_eq_ok, pure_eq_ok] at h
    obtain ⟨_, -, _, -, rfl⟩ := h
    exact ⟨_, _, rfl⟩
  case fft | ifftSum | filter =>
    simp only [exec, execFft, execIfftSum, execFilter, finish_eq_next, bind_eq_ok, pure_eq_ok] at h
    obtain ⟨_, -, _, -, _, -, rfl⟩ := h
    exact ⟨_, _, rfl⟩
  case ifft =>
    simp only [exec, execIfft, finish_eq_next, bind_eq_ok, pure_eq_ok] at h
    obtain ⟨_, -, _, -, _, -, _, -, rfl⟩ := h
    exact ⟨_, _, rfl⟩

/-! ## The moves of each agent -/

/-- What PROD can do to its registers and the ring, at a turn (R108 to R110) or at a `clk_in` edge (R113). -/
inductive ProducerMove (s : State) : State → Prop
  | stays : ProducerMove s s
  | accepts (d : Byte) (ready : s.inReady = true) (free : s.prod.stageCnt.toNat < 512) : ProducerMove s (s.accepted d)
  | commits (frame : List Byte) (hs : s.prod.state = codeCommit) (room : s.canCommit = true)
      (staged : readRun s.prod.stage 0 512 = .ok frame) : ProducerMove s (s.committed frame)
  | waitsForRoom (hs : s.prod.state = codeCommit) (full : s.canCommit = false) : ProducerMove s s.backpressured
  | checks (hs : s.prod.state = codeCommit) (hp : s.prod.cphase = .check) : ProducerMove s s.checkEdge
  | pauses (hs : s.prod.state = codeCommit) (hp : s.prod.cphase = .wait) : ProducerMove s s.waitEdge
  | copies (b : Byte) (hs : s.prod.state = codeCommit) (hp : s.prod.cphase = .copy)
      (hb : readCell s.prod.stage s.prod.copyIdx.toNat = some b) (more : s.prod.copyIdx ≠ 511#9) :
      ProducerMove s { s with
        ram := ramWrite s.ram (ramAddr s.cfg s.prod.hf s.prod.copyIdx.toNat) b
        prod := { s.prod with copyIdx := s.prod.copyIdx + 1#9 } }
  | publishes (b : Byte) (hs : s.prod.state = codeCommit) (hp : s.prod.cphase = .copy)
      (hb : readCell s.prod.stage s.prod.copyIdx.toNat = some b) (last : s.prod.copyIdx = 511#9) :
      ProducerMove s ({ s with
        ram := ramWrite s.ram (ramAddr s.cfg s.prod.hf s.prod.copyIdx.toNat) b } : State).commitPublished

/-- What CONS can do to its registers, the pipeline and the output, at a turn (R116 to R118) or at a `clk_proc` edge (R120). -/
inductive ConsumerMove (s : State) : State → Prop
  | stays : ConsumerMove s s
  | dequeues (frame : List Byte) (hs : s.cons.state = codeWaiting) (ready : s.framesReady ≠ 0)
      (hf : s.tailFrameBytes = .ok frame) : ConsumerMove s (s.dequeued frame)
  | processes (v : List Sample) (r : Filtered) (hs : s.cons.state = codeProcessing) (hv : s.finSamples = .ok v)
      (hr : filterFrame s.cfg.kMin s.cfg.kMax v = .ok r) : ConsumerMove s (s.processed r)
  | emits (b : Byte) (hs : s.cons.state = codeEmitting) (hb : s.outByte s.cons.emitIdx.toNat = .ok b) :
      ConsumerMove s (s.emitting b)
  | stalls : ConsumerMove s s.stallEdge
  | starts (hs : s.cons.state = codeWaiting) (ready : s.framesReady ≠ 0) :
      ConsumerMove s ({ s with cons := { s.cons with dqActive := true, rdIdx := 0#9 } } : State).stalled
  | reads (b : Byte) (hs : s.cons.state = codeWaiting) (hq : s.cons.dqActive = true)
      (hb : readCell s.ram (ramAddr s.cfg s.cons.tf s.cons.rdIdx.toNat) = some b) (more : s.cons.rdIdx ≠ 511#9) :
      ConsumerMove s ({ s with cons := { s.cons with
        fin := writeCell s.cons.fin s.cons.rdIdx.toNat b, rdIdx := s.cons.rdIdx + 1#9 } } : State).stalled
  | readsLast (b : Byte) (hs : s.cons.state = codeWaiting) (hq : s.cons.dqActive = true)
      (hb : readCell s.ram (ramAddr s.cfg s.cons.tf s.cons.rdIdx.toNat) = some b) (last : s.cons.rdIdx = 511#9) :
      ConsumerMove s ({ s with cons := { s.cons with
        fin := writeCell s.cons.fin s.cons.rdIdx.toNat b } } : State).dequeuePublished.stalled
  | runs (n : Nat) (u : State) (hs : s.cons.state = codeProcessing) (hu : pipeOps n s.drawn = .ok u) :
      ConsumerMove s u.stalled
  | sends (b : Byte) (hs : s.cons.state = codeEmitting) (more : s.cons.emitIdx ≠ 513#10)
      (hb : s.outByte (s.cons.emitIdx.toNat + 1) = .ok b) :
      ConsumerMove s { s with
        cons := { s.cons with emitIdx := s.cons.emitIdx + 1#10, outData := b }
        emitted := s.emitted ++ [s.cons.outData] }
  | sendsLast (hs : s.cons.state = codeEmitting) (last : s.cons.emitIdx = 513#10) :
      ConsumerMove s { s with
        cons := { s.cons with outValid := false, emitIdx := 0#10, state := codeWaiting }
        emitted := s.emitted ++ [s.cons.outData] }

theorem prodEdge_move (s a : State) (v : Bool) (d : Byte) (h : s.prodEdge v d = .ok a) : ProducerMove s a := by
  unfold State.prodEdge at h
  split at h
  · cases h
  split at h
  next hs =>
    cases hp : s.prod.cphase with
    | check => rw [hp] at h; cases h; exact .checks hs hp
    | wait => rw [hp] at h; cases h; exact .pauses hs hp
    | copy =>
      obtain ⟨b, hb, rfl⟩ := (prodEdge_copies s a v d hs hp).1 (by
        simpa [State.prodEdge, hs, hp, codeUnused, codeCommit] using h)
      by_cases last : s.prod.copyIdx = 511#9
      · simpa only [last, if_true] using ProducerMove.publishes b hs hp hb last
      · simpa only [last, if_false] using ProducerMove.copies b hs hp hb last
  next =>
    split at h
    next hv =>
      split at h
      · cases h
      next free =>
        cases h
        refine .accepts d (by simp_all) ?_
        simpa [BitVec.le_def] using free
    next => cases h; exact .stays

theorem consEdge_move (s b : State) (r : Bool) (h : s.consEdge r = .ok b) : ConsumerMove s b := by
  unfold State.consEdge at h
  split at h
  · cases h
  split at h
  next hs =>
    split at h
    next =>
      split at h
      next ready => cases h; exact .starts hs (by omega)
      next => cases h; exact .stays
    next hq =>
      split at h
      next => cases h; exact .stalls
      next =>
        simp only [State.readEdge, ramRead, bind_eq_ok, readElem_eq_ok, pure_eq_ok] at h
        obtain ⟨u, ⟨x, hx, hu⟩, rfl⟩ := h
        have active : s.cons.dqActive = true := by simpa using hq
        split at hu
        next last => cases hu; exact .readsLast x hs active hx last
        next more => cases hu; exact .reads x hs active hx more
  next =>
    split at h
    next hs =>
      split at h
      next => cases h; exact .stalls
      next =>
        obtain ⟨u, hu, rfl⟩ : ∃ u, pipeOps (Config.pipeRate s.freeIdx + 1) s.drawn = .ok u ∧ u.stalled = b := by
          simpa only [bind_eq_ok, pure_eq_ok] using h
        exact .runs _ u hs hu
    next hu hw hp =>
      have hs : s.cons.state = codeEmitting := by
        revert hu hw hp
        generalize s.cons.state = c
        revert c
        decide
      unfold State.emitEdge at h
      split at h
      next =>
        split at h
        next last => cases h; exact .sendsLast hs last
        next more =>
          obtain ⟨x, hx, hu⟩ := (bind_eq_ok _ _ _).1 h
          cases hu
          exact .sends x hs more hx
      next => cases h; exact .stays

/-! ## What the moves leave unchanged -/

/-- PROD moves nothing of CONS's domain, and of the crossing only what `hf` brings later (R16, R99). -/
theorem ProducerMove.frame {s a : State} (m : ProducerMove s a) :
    a.cfg = s.cfg ∧ a.cons = s.cons ∧ a.pipe = s.pipe ∧ a.rst = s.rst ∧ a.emitted = s.emitted ∧
      a.freeIdx = s.freeIdx ∧ a.prod.hfGray = s.prod.hfGray ∧ a.prod.tfSync = s.prod.tfSync := by
  cases m with
  | checks => simp only [State.checkEdge]; (repeat' split) <;> simp
  | pauses => simp only [State.waitEdge]; split <;> simp
  | _ => simp

/-- The accepted stream only grows (R96). -/
theorem ProducerMove.inLog_grows {s a : State} (m : ProducerMove s a) : s.inLog <+: a.inLog := by
  cases m with
  | accepts d => exact List.prefix_append _ _
  | _ => simp

end Sys2Proof.Machine
end

section
/-! What a step that answers did, as one case split; and the statements that need no more than that. -/

namespace Sys2Proof.Machine

/-- CONS moves nothing of PROD's domain, and of the crossing only what `tf` brings later (R16, R99). -/
theorem ConsumerMove.frame {s b : State} (m : ConsumerMove s b) :
    b.cfg = s.cfg ∧ b.prod = s.prod ∧ b.ram = s.ram ∧ b.rst = s.rst ∧ b.inLog = s.inLog ∧
      b.cons.tfGray = s.cons.tfGray ∧ b.cons.hfSync = s.cons.hfSync := by
  cases m with
  | runs n u hs hu =>
    have only := pipeOps_pipelineOnly hu
    refine ⟨only.cfg, only.prod, only.ram, only.rst, only.inLog, ?_, ?_⟩ <;> simp only [State.stalled_cons] <;>
      rw [only.cons] <;> rfl
  | _ => simp

/-! ## Edges -/

/-- The `clk_in` side of an edge: held by the reset line, or a move of PROD and then its synchronisers (R99, R134). -/
inductive InEdge (s : State) : State → Prop
  | held (line : ResetUnit) : InEdge s { s with rst := line }
  | ran (a : State) (out : s.prodOutOfReset = true) (m : ProducerMove s a) : InEdge s (a.prodSynced s)

/-- The `clk_proc` side of an edge. -/
inductive ProcEdge (s : State) : State → Prop
  | held (line : ResetUnit) : ProcEdge s { s with rst := line }
  | ran (b : State) (out : s.consOutOfReset = true) (m : ConsumerMove s b) : ProcEdge s (b.consSynced s)

theorem clkInEdge_side (v : Bool) (d : Byte) (s t : State) (h : clkInEdge v d s = .next t) : InEdge s t := by
  unfold clkInEdge at h
  split at h
  · cases h; exact .held _
  split at h
  · cases h; exact .held _
  next out =>
    simp only [finish_eq_next, bind_eq_ok, pure_eq_ok] at h
    obtain ⟨a, ha, rfl⟩ := h
    exact .ran a (by simpa using out) (prodEdge_move s a v d ha)

theorem clkProcEdge_side (r : Bool) (s t : State) (h : clkProcEdge r s = .next t) : ProcEdge s t := by
  unfold clkProcEdge at h
  split at h
  · cases h; exact .held _
  split at h
  · cases h; exact .held _
  next out =>
    simp only [finish_eq_next, bind_eq_ok, pure_eq_ok] at h
    obtain ⟨b, hb, rfl⟩ := h
    exact .ran b (by simpa using out) (consEdge_move s b r hb)

/-! ## One step -/

/-- What a step does to the state from which its event was taken, if it resets nothing. -/
inductive Transition (s : State) : State → Prop
  | called (w : Workspace) (r : FnResult) : Transition s ((s.withWork w).returning r)
  | line (l : ResetUnit) : Transition s { s with rst := l }
  | produced (a : State) (m : ProducerMove s a) : Transition s a
  | consumed (b : State) (m : ConsumerMove s b) : Transition s b
  | headCrossed : Transition s s.headCrossed
  | tailCrossed : Transition s s.tailCrossed
  | clkIn (a : State) (h : InEdge s a) : Transition s a
  | clkProc (b : State) (h : ProcEdge s b) : Transition s b
  | clkBoth (a b : State) (newHead newTail : Bool) (ha : InEdge s a) (hb : ProcEdge s b) :
      Transition s (s.joined a b newHead newTail)

/-- The operations, each a reset or one of the transitions. -/
theorem exec_transition (i : Instr) (s t : State) (h : exec i s = .next t) :
    (i = .reset ∧ t = s.registersReset (ResetUnit.released s.cfg)) ∨ Transition s t := by
  by_cases hi : isFunctionRow i = true
  · obtain ⟨w, r, rfl⟩ := exec_functionRow i s t hi h
    exact .inr (.called w r)
  cases i
  case reset => cases h; exact .inl ⟨rfl, rfl⟩
  case syncH g => obtain ⟨-, rfl⟩ := (execSyncH_eq_next g _ _).1 h; exact .inr .headCrossed
  case syncT g => obtain ⟨-, rfl⟩ := (execSyncT_eq_next g _ _).1 h; exact .inr .tailCrossed
  case accept st c d =>
    obtain ⟨-, ready, -, free, rfl⟩ := (execAccept_eq_next st c d _ _).1 h
    exact .inr (.produced _ (.accepts d ready (by simpa [BitVec.le_def] using free)))
  case commitOk v x =>
    obtain ⟨-, hs, room, frame, staged, rfl⟩ := (execCommitOk_eq_next v x _ _).1 h
    exact .inr (.produced _ (.commits frame hs room staged))
  case commitBp v x =>
    obtain ⟨-, hs, full, rfl⟩ := (execCommitBp_eq_next v x _ _).1 h
    exact .inr (.produced _ (.waitsForRoom hs full))
  case dequeue =>
    obtain ⟨-, hs, ready, frame, hf, rfl⟩ := (execDequeue_eq_next _ _).1 h
    exact .inr (.consumed _ (.dequeues frame hs ready hf))
  case process f =>
    obtain ⟨-, hs, v, r, hv, hr, rfl⟩ := (execProcess_eq_next f _ _).1 h
    exact .inr (.consumed _ (.processes v r hs hv hr))
  case emitSof =>
    obtain ⟨-, hs, he, rfl⟩ := (execEmitSof_eq_next _ _).1 h
    exact .inr (.consumed _ (.emits _ hs (by simp [he, State.outByte])))
  case emitData =>
    obtain ⟨-, hs, he, -, -, hb, rfl⟩ := (execEmitData_eq_next _ _ _ _).1 h
    exact .inr (.consumed _ (.emits _ hs (he ▸ hb)))
  case emitEof =>
    obtain ⟨-, hs, he, rfl⟩ := (execEmitEof_eq_next _ _).1 h
    exact .inr (.consumed _ (.emits _ hs (by simp [he, State.outByte])))
  all_goals exact absurd rfl hi

theorem within_eq_some {p : Params} {n w : Nat} {i j : Instr} (h : within p n w i = some j) : i = j := by
  simp only [within, ifWellFormed] at h
  split at h
  · cases h
  · split at h <;> cases h
    rfl

/-- Only the reset port's word stands for RESET. -/
theorem decode_reset {p : Params} {src : Source} {w : Nat} (h : decode p src w = some .reset) : src = .portRst := by
  cases src with
  | portRst => rfl
  | prodIn => simp only [decode, decodeProdIn] at h; (repeat' split at h) <;> cases h
  | consCtl => simp only [decode, decodeConsCtl] at h; (repeat' split at h) <;> cases h
  | consOut => simp only [decode, decodeConsOut, ifWellFormed] at h; (repeat' split at h) <;> cases h
  | syncH | syncT => cases within_eq_some h
  | fn f => cases f <;> cases within_eq_some h

theorem fetch_portRst {s : State} {ev : Event} {w : Nat} (h : s.fetch ev = .word .portRst w) : ev = .reset := by
  cases ev with
  | reset => rfl
  | prod v d => simp only [State.fetch, State.fetchProd] at h; (repeat' split at h) <;> cases h
  | cons r => simp only [State.fetch, State.fetchCons] at h; (repeat' split at h) <;> cases h
  | syncH | syncT => simp only [State.fetch] at h; split at h <;> cases h
  | _ => cases h

/-- An event of the cycle level resets the registers or is one of the transitions. -/
theorem cycleStep_transition (ev : Event) (s t : State) (h : cycleStep ev s = .next t) :
    (ev = .rstN false ∧ t = s.registersReset (ResetUnit.asserted s.cfg)) ∨ Transition s t := by
  cases ev
  case clkIn v d => exact .inr (.clkIn t (clkInEdge_side v d s t h))
  case clkProc r => exact .inr (.clkProc t (clkProcEdge_side r s t h))
  case clkBoth v d r newHead newTail =>
    obtain ⟨a, b, ha, hb, rfl⟩ := (clkBothEdge_eq_next _ _ _ _ _ _ _).1 h
    exact .inr (.clkBoth a b newHead newTail (clkInEdge_side v d s a ha) (clkProcEdge_side r s b hb))
  case rstN level =>
    simp only [cycleStep, resetLine] at h
    split at h
    · cases h; exact .inr (.produced _ .stays)
    split at h
    · split at h <;> cases h
      exact .inr (.line _)
    next low => cases h; exact .inl ⟨by simp_all, rfl⟩
  all_goals cases h; exact .inr (.produced _ .stays)

/-- Everything a step that answers can have done: nothing, a reset of the registers, or one of the transitions. -/
theorem step_transition (s t : State) (h : step s = .next t) :
    s.cfg.legal = true ∧ (t = s ∨ ∃ rest,
      (resetNext s ∧ ∃ l, t = ({ s with inbox := rest } : State).registersReset l) ∨
        Transition { s with inbox := rest } t) := by
  obtain ⟨legal, ⟨-, rfl⟩ | ⟨ev, rest, hi, hev⟩⟩ := step_eq_next s t h
  · exact ⟨legal, .inl rfl⟩
  refine ⟨legal, .inr ⟨rest, ?_⟩⟩
  obtain ⟨-, hc⟩ | ⟨-, ⟨-, rfl⟩ | ⟨src, w, i, hf, hd, he⟩⟩ := hev
  · obtain ⟨rfl, ht⟩ | ht := cycleStep_transition ev _ t hc
    · exact .inl ⟨.inr (by simp [hi]), _, ht⟩
    · exact .inr ht
  · exact .inr (.produced _ .stays)
  · obtain ⟨rfl, ht⟩ | ht := exec_transition i _ t he
    · obtain rfl := decode_reset hd
      obtain rfl := fetch_portRst hf
      exact .inl ⟨.inl (by simp [hi]), _, ht⟩
    · exact .inr ht

/-! ## The backpressure counter -/

/-- `bp_count` counts a frame at its first failed check, and only there (R110, R111). -/
def CountsBackpressure (s t : State) : Prop :=
  t.prod.bpCount = s.prod.bpCount ∨
    (t.prod.bpCount = s.prod.bpCount + 1#32 ∧ s.prod.state = codeCommit ∧ s.prod.bpFlag = false ∧
      t.prod.bpFlag = true ∧ s.canCommit = false)

theorem backpressured_counts {s : State} (hs : s.prod.state = codeCommit) (full : s.canCommit = false) :
    CountsBackpressure s s.backpressured := by
  cases hb : s.prod.bpFlag with
  | true => exact .inl (by simp [hb])
  | false => exact .inr ⟨by simp [hb], hs, hb, by simp, full⟩

theorem ProducerMove.counts {s a : State} (m : ProducerMove s a) : CountsBackpressure s a := by
  cases m with
  | waitsForRoom hs full => exact backpressured_counts hs full
  | checks hs hp =>
    unfold State.checkEdge
    split
    · exact .inl rfl
    next full =>
      have counts := backpressured_counts hs (by simpa using full)
      split <;> exact counts
  | pauses => unfold State.waitEdge; split <;> exact .inl rfl
  | _ => exact .inl (by simp)

theorem InEdge.counts {s a : State} (h : InEdge s a) : CountsBackpressure s a := by
  cases h with
  | held => exact .inl rfl
  | ran a out m => exact m.counts

theorem InEdge.cfg {s a : State} (h : InEdge s a) : a.cfg = s.cfg := by
  cases h with
  | held => rfl
  | ran a out m => exact m.frame.1

theorem ProcEdge.cfg_prod {s b : State} (h : ProcEdge s b) : b.cfg = s.cfg ∧ b.prod = s.prod := by
  cases h with
  | held => exact ⟨rfl, rfl⟩
  | ran b out m => obtain ⟨hcfg, hprod, -⟩ := m.frame; exact ⟨hcfg, hprod⟩

theorem Transition.cfg_counts {s t : State} (h : Transition s t) : t.cfg = s.cfg ∧ CountsBackpressure s t := by
  cases h with
  | produced _ m => exact ⟨m.frame.1, m.counts⟩
  | consumed _ m => obtain ⟨hcfg, hprod, -⟩ := m.frame; exact ⟨hcfg, .inl (by rw [hprod])⟩
  | clkIn _ h => exact ⟨h.cfg, h.counts⟩
  | clkProc _ h => exact ⟨h.cfg_prod.1, .inl (by rw [h.cfg_prod.2])⟩
  | clkBoth a b _ _ ha _ => exact ⟨ha.cfg, ha.counts⟩
  | _ => exact ⟨rfl, .inl rfl⟩

/-- Settles O54, by the cases of a step. -/
theorem backpressureCounterMovesOnlyAtAFailedCheck : Obligations.BackpressureCounterMovesOnlyAtAFailedCheck := by
  intro s t h
  obtain ⟨-, rfl | ⟨rest, ⟨reset, l, rfl⟩ | ht⟩⟩ := step_transition s t h
  · exact ⟨rfl, .inl rfl⟩
  · exact ⟨rfl, .inr (.inl reset)⟩
  · obtain ⟨hcfg, same | counted⟩ := ht.cfg_counts
    · exact ⟨hcfg, .inl same⟩
    · exact ⟨hcfg, .inr (.inr counted)⟩

end Sys2Proof.Machine
end

section
/-! The one rounding of R10: which of its two neighbours a magnitude is rounded to, that no other word is nearer, that a tie goes
to the even one, and where the finite range ends. -/

namespace Sys2Proof.Machine

/-! ## The neighbours of a magnitude -/

/-- The rounded quotient is the floor or the next integer, each on its side of the midpoint and at it when it is even. -/
theorem roundShift_cases (m p : Nat) :
    (roundShift m p = m >>> p ∧ 2 * m ≤ (2 * (m >>> p) + 1) * 2 ^ p ∧
      (2 * m = (2 * (m >>> p) + 1) * 2 ^ p → roundShift m p % 2 = 0)) ∨
    (roundShift m p = m >>> p + 1 ∧ (2 * (m >>> p) + 1) * 2 ^ p ≤ 2 * m ∧
      (2 * m = (2 * (m >>> p) + 1) * 2 ^ p → roundShift m p % 2 = 0)) := by
  have hm : 2 ^ p * (m >>> p) + m % 2 ^ p = m := by rw [Nat.shiftRight_eq_div_pow]; exact Nat.div_add_mod m (2 ^ p)
  have mid : (2 * (m >>> p) + 1) * 2 ^ p = 2 * (2 ^ p * (m >>> p)) + 2 ^ p := by ring
  rw [mid]
  unfold roundShift
  split <;> omega

theorem shiftRight_bounds (m p : Nat) : (m >>> p) * 2 ^ p ≤ m ∧ m < (m >>> p + 1) * 2 ^ p := by
  rw [Nat.shiftRight_eq_div_pow]
  exact ⟨Nat.div_mul_le_self m _, Nat.lt_mul_of_div_lt (Nat.lt_succ_self _) (Nat.two_pow_pos p)⟩

/-- The significand before rounding fits 24 bits. -/
theorem shiftRight_roundPos_lt (m k : Nat) : m >>> roundPos m k < 2 ^ 24 := by
  rw [Nat.shiftRight_eq_div_pow, Nat.div_lt_iff_lt_mul (Nat.two_pow_pos _), ← pow_add]
  exact Nat.lt_log2_self.trans_le (Nat.pow_le_pow_right (by decide) (by unfold roundPos; omega))

/-- Above the lowest position the significand before rounding is normal. -/
theorem le_shiftRight_roundPos (m k : Nat) (h : k < roundPos m k) : 2 ^ 23 ≤ m >>> roundPos m k := by
  have hp : roundPos m k = m.log2 - 23 := by unfold roundPos at *; omega
  have hm : m ≠ 0 := by
    rintro rfl
    have : Nat.log2 0 = 0 := by decide
    omega
  rw [Nat.shiftRight_eq_div_pow, Nat.le_div_iff_mul_le (Nat.two_pow_pos _), ← pow_add]
  exact (Nat.pow_le_pow_right (by decide) (by omega)).trans (Nat.log2_self_le hm)

theorem le_roundPos (m k : Nat) : k ≤ roundPos m k := by unfold roundPos; omega

/-- A finite magnitude is a significand of 24 bits in some position. -/
theorem funits_form (u : F32) : ∃ f j, f < 2 ^ 24 ∧ funits u = f * 2 ^ j := by
  have := ffrac_lt u
  unfold funits
  split
  · exact ⟨ffrac u, 0, by omega, by simp⟩
  · exact ⟨ffrac u + 2 ^ 23, fexp u - 1, by omega, by rw [Nat.shiftLeft_eq]⟩

/-- No word lies strictly between the two neighbours of a magnitude. -/
theorem fvalue_outside (u : F32) (m k : Nat) :
    fvalue u ≤ ((m >>> roundPos m k) * 2 ^ (roundPos m k - k) : Nat) ∨
      ((m >>> roundPos m k + 1) * 2 ^ (roundPos m k - k) : Nat) ≤ fvalue u := by
  obtain ⟨f, j, hf, hu⟩ := funits_form u
  have hv := fvalue_natAbs u
  generalize he : roundPos m k - k = e
  have normal : e ≠ 0 → 2 ^ 23 ≤ m >>> roundPos m k := fun h => le_shiftRight_roundPos m k (by omega)
  generalize m >>> roundPos m k = l at *
  suffices funits u ≤ l * 2 ^ e ∨ (l + 1) * 2 ^ e ≤ funits u by omega
  rw [hu]
  by_cases hj : e ≤ j
  · obtain ⟨d, rfl⟩ := Nat.exists_eq_add_of_le hj
    rw [pow_add, ← mul_assoc, mul_right_comm]
    rcases Nat.lt_or_ge l (f * 2 ^ d) with h | h
    · exact .inr (Nat.mul_le_mul_right _ h)
    · exact .inl (Nat.mul_le_mul_right _ h)
  · left
    obtain ⟨d, rfl⟩ := Nat.exists_eq_add_of_lt (Nat.lt_of_not_le hj)
    calc f * 2 ^ j ≤ 2 ^ 24 * 2 ^ j := Nat.mul_le_mul_right _ hf.le
      _ = 2 ^ 23 * 2 ^ (j + 1) := by ring
      _ ≤ l * 2 ^ (j + d + 1) := Nat.mul_le_mul (normal (by omega)) (Nat.pow_le_pow_right (by decide) (by omega))

/-! ## The nearest word -/

/-- `w` is a word nearest to x / D (in units of 2^-149), and the even one where another is as near (R10). -/
def IsNearest (w : F32) (D : Nat) (x : Int) : Prop :=
  (∀ u, finite u = true → (fvalue w * D - x).natAbs ≤ (fvalue u * D - x).natAbs) ∧
  ∀ u, finite u = true → fvalue u ≠ fvalue w → (fvalue w * D - x).natAbs = (fvalue u * D - x).natAbs →
    w.getLsbD 0 = false

/-- `m / 2^k` lies to every half unit as `N / D` does: all that a rounding looks at. For a quotient, `m` keeps a sticky bit in
place of the bits below (`fdiv`). -/
def Stands (m k N D : Nat) : Prop :=
  ∀ j, (2 * m < j * 2 ^ k ↔ 2 * N < j * D) ∧ (j * 2 ^ k < 2 * m ↔ j * D < 2 * N)

theorem Stands.exact {m k N D : Nat} (hD : 0 < D) (h : N * 2 ^ k = m * D) : Stands m k N D := by
  have hk := Nat.two_pow_pos k
  intro j
  have key : 2 * N * 2 ^ k = 2 * m * D := by rw [mul_assoc, h, mul_assoc]
  have swap : j * D * 2 ^ k = j * 2 ^ k * D := by ring
  constructor
  · rw [← Nat.mul_lt_mul_right hD (b := 2 * m), ← Nat.mul_lt_mul_right hk (b := 2 * N), key, swap]
  · rw [← Nat.mul_lt_mul_right hD (b := j * 2 ^ k), ← Nat.mul_lt_mul_right hk (b := j * D), key, swap]

/-- The last bit of the answer is that of the rounded significand. -/
theorem roundUnits_lsb {neg : Bool} {m k : Nat} {w : F32} (h : roundUnits neg m k = .ok w) :
    w.getLsbD 0 = decide (roundShift m (roundPos m k) % 2 = 1) := by
  unfold roundUnits at h
  simp only [] at h
  split at h
  · cases h
  · cases h
    rw [Nat.shiftLeft_eq, BitVec.getLsbD_ofNat, Nat.testBit_zero]
    cases neg <;> simp <;> omega

/-- What the rounding does to the value `N / D` it stands for: the neighbours that enclose it, and the one it is rounded to. -/
theorem Stands.rounded {m k N D : Nat} (h : Stands m k N D) :
    let l := m >>> roundPos m k
    let q := roundShift m (roundPos m k)
    let a := l * 2 ^ (roundPos m k - k) * D
    let b := (l + 1) * 2 ^ (roundPos m k - k) * D
    a ≤ N ∧ N < b ∧ (q = l ∧ 2 * N ≤ a + b ∨ q = l + 1 ∧ a + b ≤ 2 * N) ∧ (2 * N = a + b → q % 2 = 0) := by
  intro l q a b
  have bounds : l * 2 ^ roundPos m k ≤ m ∧ m < (l + 1) * 2 ^ roundPos m k := shiftRight_bounds m (roundPos m k)
  have sides : (q = l ∧ 2 * m ≤ (2 * l + 1) * 2 ^ roundPos m k ∧ (2 * m = (2 * l + 1) * 2 ^ roundPos m k → q % 2 = 0)) ∨
      (q = l + 1 ∧ (2 * l + 1) * 2 ^ roundPos m k ≤ 2 * m ∧ (2 * m = (2 * l + 1) * 2 ^ roundPos m k → q % 2 = 0)) :=
    roundShift_cases m (roundPos m k)
  have halves (c : Nat) : (2 * m < c * 2 ^ roundPos m k ↔ 2 * N < c * 2 ^ (roundPos m k - k) * D) ∧
      (c * 2 ^ roundPos m k < 2 * m ↔ c * 2 ^ (roundPos m k - k) * D < 2 * N) := by
    have := h (c * 2 ^ (roundPos m k - k))
    rwa [mul_assoc c, ← pow_add, Nat.sub_add_cancel (le_roundPos m k)] at this
  have hlow := (halves (2 * l)).1
  have hhigh := (halves (2 * (l + 1))).1
  have hmid := halves (2 * l + 1)
  rw [show 2 * l * 2 ^ (roundPos m k - k) * D = 2 * a by ring, mul_assoc] at hlow
  rw [show 2 * (l + 1) * 2 ^ (roundPos m k - k) * D = 2 * b by ring, mul_assoc] at hhigh
  rw [show (2 * l + 1) * 2 ^ (roundPos m k - k) * D = a + b by ring] at hmid
  clear_value a b l q
  omega

/-- Between the neighbours `a` and `b` of `n`, rounding to the one on the midpoint's own side is rounding to the nearest. -/
theorem nearest_of_neighbours {a b n r y : Int} (low : a ≤ n) (high : n < b) (outside : y ≤ a ∨ b ≤ y)
    (hr : (r = a ∧ 2 * n ≤ a + b) ∨ (r = b ∧ a + b ≤ 2 * n)) :
    (r - n).natAbs ≤ (y - n).natAbs ∧ (y ≠ r → (r - n).natAbs = (y - n).natAbs → 2 * n = a + b) := by
  omega

/-- `u` with its sign flipped where `neg` says so. -/
def flipped (neg : Bool) (u : F32) : F32 := if neg then fneg u else u

/-- `n` with its sign flipped where `neg` says so. -/
def signed (neg : Bool) (n : Nat) : Int := if neg then -(n : Int) else n

theorem fvalue_flipped (neg : Bool) (u : F32) : fvalue (flipped neg u) = if neg then -fvalue u else fvalue u := by
  cases neg <;> simp [flipped]

theorem signed_distance (neg : Bool) (u : F32) (D N : Nat) :
    (fvalue u * D - signed neg N).natAbs = (fvalue (flipped neg u) * D - N).natAbs := by
  cases neg
  · rfl
  · rw [fvalue_flipped, ← Int.natAbs_neg]
    congr 1
    simp only [signed, if_true]
    ring

/-- `roundUnits` answers the nearest word to what its operands stand for, ties to even. -/
theorem roundUnits_nearest {neg : Bool} {m k N D : Nat} {w : F32} (hD : 0 < D) (h : Stands m k N D)
    (hw : roundUnits neg m k = .ok w) : IsNearest w D (signed neg N) := by
  obtain ⟨low, high, side, tie⟩ := h.rounded
  obtain ⟨-, sign, units⟩ := roundUnits_ok neg m k w hw
  have outside (u : F32) := fvalue_outside (flipped neg u) m k
  have value : fvalue (flipped neg w) = (roundShift m (roundPos m k) * 2 ^ (roundPos m k - k) : Nat) := by
    rw [fvalue_flipped, fvalue, sign, units]; cases neg <;> simp
  have lsb := roundUnits_lsb hw
  simp only [IsNearest, signed_distance neg]
  generalize m >>> roundPos m k = l at *
  generalize roundShift m (roundPos m k) = q at *
  generalize 2 ^ (roundPos m k - k) = E at *
  have near (u : F32) := nearest_of_neighbours (a := (l * E : Nat) * D) (b := ((l + 1) * E : Nat) * D) (n := N)
    (r := fvalue (flipped neg w) * D) (y := fvalue (flipped neg u) * D) (by exact_mod_cast low) (by exact_mod_cast high)
    ((outside u).imp (Int.mul_le_mul_of_nonneg_right · (by omega)) (Int.mul_le_mul_of_nonneg_right · (by omega)))
    (by
      rw [value]
      exact side.imp (fun ⟨hq, h⟩ => ⟨by rw [hq], by exact_mod_cast h⟩) fun ⟨hq, h⟩ => ⟨by rw [hq], by exact_mod_cast h⟩)
  refine ⟨fun u _ => (near u).1, fun u _ hne heq => ?_⟩
  have even : q % 2 = 0 := tie (by
    have mid := (near u).2 (fun h => hne ?_) heq
    · exact_mod_cast mid
    have same := Int.eq_of_mul_eq_mul_right (by omega) h
    rw [fvalue_flipped, fvalue_flipped] at same
    cases neg <;> simp_all)
  rw [lsb, even]
  rfl

/-! ## The end of the finite range -/

/-- `roundUnits` answers exactly below 2^128 − 2^103, half a unit of the last place above the greatest finite word. -/
theorem roundUnits_answers_iff {m k N D : Nat} (neg : Bool) (h : Stands m k N D) :
    (∃ w, roundUnits neg m k = .ok w) ↔ N < (2 ^ 277 - 2 ^ 252) * D := by
  have range : (∃ w, roundUnits neg m k = .ok w) ↔
      roundShift m (roundPos m k) + (roundPos m k - k) * 2 ^ 23 < 0x7F800000 := by
    simp only [roundUnits, Nat.shiftLeft_eq]
    split <;> simp <;> omega
  obtain ⟨low, high, side, tie⟩ := h.rounded
  have fits := shiftRight_roundPos_lt m k
  have normal := le_shiftRight_roundPos m k
  rw [range]
  generalize he : roundPos m k - k = e at *
  generalize m >>> roundPos m k = l at *
  generalize roundShift m (roundPos m k) = q at *
  rcases Nat.lt_trichotomy e 253 with small | rfl | large
  · have top : (l + 1) * 2 ^ e * D ≤ 2 ^ 24 * 2 ^ 252 * D :=
      Nat.mul_le_mul_right _ (Nat.mul_le_mul fits (Nat.pow_le_pow_right (by decide) (by omega)))
    have : e * 2 ^ 23 ≤ 252 * 2 ^ 23 := Nat.mul_le_mul_right _ (by omega)
    omega
  · have unit (c : Nat) : c * 2 ^ 253 * D = c * (2 * (2 ^ 252 * D)) := by ring
    have top : (2 ^ 277 - 2 ^ 252) * D = (2 ^ 25 - 1) * (2 ^ 252 * D) := by
      rw [← mul_assoc, Nat.sub_mul _ _ (2 ^ 252), one_mul, ← pow_add]
    rw [unit, unit] at side
    rw [unit] at low high
    rw [top]
    generalize 2 ^ 252 * D = x at *
    rcases Nat.lt_or_ge (l + 1) (2 ^ 24) with below | last
    · have : (l + 1) * (2 * x) ≤ (2 ^ 24 - 1) * (2 * x) := Nat.mul_le_mul_right _ (by omega)
      omega
    · obtain rfl : l = 2 ^ 24 - 1 := by omega
      omega
  · have bottom : 2 ^ 23 * 2 ^ 254 * D ≤ l * 2 ^ e * D :=
      Nat.mul_le_mul_right _ (Nat.mul_le_mul (normal (by omega)) (Nat.pow_le_pow_right (by decide) (by omega)))
    have : 254 * 2 ^ 23 ≤ e * 2 ^ 23 := Nat.mul_le_mul_right _ (by omega)
    have := normal (by omega)
    omega

end Sys2Proof.Machine
end

section
/-! The binary32 operations of R10 are correctly rounded. -/

namespace Sys2Proof.Machine

/-! ## The sign bit -/

theorem getLsbD_fneg (a : F32) (i : Nat) (hi : i < 32) : (fneg a).getLsbD i = (a.getLsbD i != decide (i = 31)) := by
  rw [fneg, show 0x80000000#32 = BitVec.twoPow 32 31 from rfl, BitVec.getLsbD_xor, BitVec.getLsbD_twoPow]
  simp [hi, eq_comm]

theorem getLsbD_fabs (a : F32) (i : Nat) (hi : i < 32) : (fabs a).getLsbD i = (a.getLsbD i && decide (i ≠ 31)) := by
  rw [fabs, show 0x7FFFFFFF#32 = ~~~BitVec.twoPow 32 31 from by decide, BitVec.getLsbD_and, BitVec.getLsbD_not,
    BitVec.getLsbD_twoPow]
  simp [hi, eq_comm]

/-! ## Addition -/

theorem fadd_nonfinite {a b : F32} (h : (finite a && finite b) = false) : fadd a b = .error .nonFinite := by
  simp [fadd, h]

/-- An exact zero sum is +0.0 unless both terms are negative. -/
theorem fadd_zero {a b : F32} (ha : finite a = true) (hb : finite b = true) (h0 : fvalue a + fvalue b = 0) :
    fadd a b = .ok (if fsign a && fsign b then 0x80000000#32 else 0x00000000#32) := by
  simp [fadd, ha, hb, h0]

theorem fadd_rounds {a b : F32} (ha : finite a = true) (hb : finite b = true) (h0 : fvalue a + fvalue b ≠ 0) :
    fadd a b = roundUnits (decide (fvalue a + fvalue b < 0)) (fvalue a + fvalue b).natAbs 0 := by
  simp [fadd, ha, hb, h0]

theorem signed_natAbs (x : Int) : signed (decide (x < 0)) x.natAbs = x := by
  by_cases h : x < 0 <;> simp only [signed, h, decide_true, decide_false, if_true, Bool.false_eq_true, if_false] <;> omega

/-- An integer stands for itself. -/
theorem stands_integer (m : Nat) : Stands m 0 m 1 := .exact Nat.one_pos rfl

theorem fadd_answers_iff {a b : F32} (ha : finite a = true) (hb : finite b = true) :
    (∃ w, fadd a b = .ok w) ↔ (fvalue a + fvalue b).natAbs < 2 ^ 277 - 2 ^ 252 := by
  by_cases h0 : fvalue a + fvalue b = 0
  · rw [fadd_zero ha hb h0, h0, Int.natAbs_zero, Nat.sub_pos_iff_lt]
    exact ⟨fun _ => pow_lt_pow_right₀ one_lt_two (by decide), fun _ => ⟨_, rfl⟩⟩
  · rw [fadd_rounds ha hb h0, roundUnits_answers_iff _ (stands_integer _), mul_one]

theorem fadd_nearest {a b w : F32} (h : fadd a b = .ok w) : IsNearest w 1 (fvalue a + fvalue b) := by
  obtain ⟨-, -, -, zero, rounds⟩ := fadd_ok a b w h
  by_cases h0 : fvalue a + fvalue b = 0
  · have hw : fvalue w = 0 := by rw [← Int.natAbs_eq_zero, fvalue_natAbs, zero h0]
    simp only [IsNearest, h0, hw]
    exact ⟨fun u _ => by simp, fun u _ hne heq => by simp at heq; exact absurd heq.symm (by simpa using hne)⟩
  · have near := roundUnits_nearest Nat.one_pos (stands_integer _) (rounds h0)
    rwa [signed_natAbs] at near

/-- The whole of R10 for a sum `x` of `a` and `b`, as O44 states it. -/
theorem fadd_correct {a b : F32} (ha : finite a = true) (hb : finite b = true) {x : Int} (hx : fvalue a + fvalue b = x) :
    ((∃ w, fadd a b = .ok w) ↔ x.natAbs < 2 ^ 277 - 2 ^ 252) ∧
    ∀ w, fadd a b = .ok w → finite w = true ∧
      (∀ u, finite u = true → (fvalue w - x).natAbs ≤ (fvalue u - x).natAbs) ∧
      (∀ u, finite u = true → fvalue u ≠ fvalue w → (fvalue w - x).natAbs = (fvalue u - x).natAbs →
        w.getLsbD 0 = false) ∧
      (x = 0 → w = if fsign a && fsign b then 0x80000000#32 else 0x00000000#32) := by
  subst hx
  refine ⟨fadd_answers_iff ha hb, fun w hw => ?_⟩
  obtain ⟨near, even⟩ := fadd_nearest hw
  simp only [Nat.cast_one, mul_one] at near even
  refine ⟨(fadd_ok a b w hw).2.2.1, near, even, fun h0 => ?_⟩
  rw [fadd_zero ha hb h0] at hw
  exact (Except.ok.inj hw).symm

/-- Settles O44: `fadd` rounds its exact sum once, and `fsub` adds the negated word. -/
theorem additionIsCorrectlyRounded : Obligations.AdditionIsCorrectlyRounded := by
  refine ⟨fun a i hi => ⟨getLsbD_fneg a i hi, getLsbD_fabs a i hi⟩, fun a b h => ⟨fadd_nonfinite h, ?_⟩,
    fun a b ha hb => fadd_correct ha hb rfl, fun a b ha hb => ?_⟩
  · exact fadd_nonfinite (by simpa using h)
  · have := fadd_correct ha (b := fneg b) (by simpa using hb) (x := fvalue a - fvalue b) (by simp [sub_eq_add_neg])
    simpa only [fsub, fsign_fneg] using this

/-! ## Multiplication -/

/-- The product of the values, by its sign and its units. -/
theorem signed_mul (a b : F32) : signed (fsign a != fsign b) (funits a * funits b) = fvalue a * fvalue b := by
  unfold signed fvalue
  cases fsign a <;> cases fsign b <;> simp

theorem fmul_rounds {a b : F32} (ha : finite a = true) (hb : finite b = true) :
    fmul a b = roundUnits (fsign a != fsign b) (funits a * funits b) 149 := by simp [fmul, ha, hb]

/-- A product of units is a number of units of 2^-298. -/
theorem stands_product (m : Nat) : Stands m 149 m (2 ^ 149) := .exact (Nat.two_pow_pos _) rfl

/-- Settles O45: `fmul` rounds its exact product once. -/
theorem multiplicationIsCorrectlyRounded : Obligations.MultiplicationIsCorrectlyRounded := by
  refine ⟨fun a b h => by simp [fmul, h], fun a b ha hb => ?_⟩
  rw [fmul_rounds ha hb]
  refine ⟨?_, fun w hw => ?_⟩
  · rw [roundUnits_answers_iff _ (stands_product _), Int.natAbs_mul, fvalue_natAbs, fvalue_natAbs]
  · obtain ⟨hfin, hsign, -⟩ := roundUnits_ok _ _ _ _ hw
    have near := roundUnits_nearest (Nat.two_pow_pos _) (stands_product _) hw
    rw [signed_mul] at near
    obtain ⟨near, even⟩ := near
    push_cast at near even
    exact ⟨hfin, hsign, near, even⟩

/-! ## Division -/

/-- The quotient to two bits below the unit, with a sticky bit for its remainder, stands for the exact quotient. -/
theorem stands_quotient (n d : Nat) (hd : 0 < d) :
    Stands (2 * ((n <<< 151) / d) + (if (n <<< 151) % d = 0 then 0 else 1)) 3 (n * 2 ^ 149) d := by
  have quarters : n <<< 151 = 4 * (n * 2 ^ 149) := by rw [Nat.shiftLeft_eq]; ring
  rw [quarters]
  generalize n * 2 ^ 149 = x
  have hdiv := Nat.div_add_mod (4 * x) d
  have hmod := Nat.mod_lt (4 * x) hd
  intro j
  have lt_iff : 4 * x / d < 2 * j ↔ 2 * x < j * d := by
    rw [Nat.div_lt_iff_lt_mul hd, mul_assoc]; omega
  have le_iff : 2 * j ≤ 4 * x / d ↔ j * d ≤ 2 * x := by omega
  have eq_iff : 2 * j = 4 * x / d ∧ 4 * x % d = 0 ↔ j * d = 2 * x := by
    constructor
    · rintro ⟨hj, h0⟩
      rw [← hj, h0, add_zero, mul_comm d, mul_assoc] at hdiv
      omega
    · intro h
      have h4 : 4 * x = 2 * j * d := by rw [mul_assoc, h]; ring
      rw [h4]
      exact ⟨(Nat.mul_div_cancel _ hd).symm, Nat.mul_mod_left _ _⟩
  split <;> omega

theorem fvalue_eq_zero_iff (a : F32) : fvalue a = 0 ↔ funits a = 0 := by
  rw [← Int.natAbs_eq_zero, fvalue_natAbs]

theorem fdiv_rounds {a b : F32} (ha : finite a = true) (hb : finite b = true) (h0 : funits b ≠ 0) :
    fdiv a b = roundUnits (fsign a != fsign b)
      (2 * ((funits a <<< 151) / funits b) + (if (funits a <<< 151) % funits b = 0 then 0 else 1)) 3 := by
  simp [fdiv, ha, hb, h0]

/-- Multiplying by the divisor keeps distances: its sign moves to the quotient. -/
theorem quotient_distance (u a b : F32) :
    (fvalue u * fvalue b - fvalue a * 2 ^ 149).natAbs =
      (fvalue u * funits b - signed (fsign a != fsign b) (funits a * 2 ^ 149)).natAbs := by
  unfold signed
  rw [fvalue.eq_1 b, fvalue.eq_1 a]
  generalize fvalue u = x
  generalize funits b = d
  generalize funits a = n
  cases fsign a <;> cases fsign b <;> simp <;> rw [← Int.natAbs_neg] <;> congr 1 <;> ring

/-- Settles O46: `fdiv` rounds once what stands for its exact quotient. -/
theorem divisionIsCorrectlyRounded : Obligations.DivisionIsCorrectlyRounded := by
  refine ⟨fun a b h => ?_, fun a b ha hb h0 => ?_⟩
  · rw [fvalue_eq_zero_iff] at h
    obtain h | h := h <;> simp [fdiv, h]
  · have hpos : 0 < funits b := Nat.pos_of_ne_zero fun h => h0 ((fvalue_eq_zero_iff b).2 h)
    have stands := stands_quotient (funits a) (funits b) hpos
    rw [fdiv_rounds ha hb hpos.ne']
    refine ⟨?_, fun w hw => ?_⟩
    · rw [roundUnits_answers_iff _ stands, fvalue_natAbs, fvalue_natAbs]
    · obtain ⟨hfin, hsign, -⟩ := roundUnits_ok _ _ _ _ hw
      obtain ⟨near, even⟩ := roundUnits_nearest hpos stands hw
      simp only [quotient_distance _ a b]
      exact ⟨hfin, hsign, near, even⟩

end Sys2Proof.Machine
end

section
/-! Powers of two bound the binary32 operations, and every twiddle the transform uses is a word: the schedule of the sequencer and
`fft` of R75 differ by the last power of each block, which `fft` computes and does not use. -/

namespace Sys2Proof.Machine

/-! ## Magnitudes bounded by a power of two -/

theorem roundShift_le_of_le {m p c : Nat} (h : m ≤ c * 2 ^ p) : roundShift m p ≤ c := by
  have hpos := Nat.two_pow_pos p
  obtain ⟨low, -⟩ := shiftRight_bounds m p
  have hl : m >>> p ≤ c := Nat.le_of_mul_le_mul_right (low.trans h) hpos
  obtain ⟨hq, -⟩ | ⟨hq, up, -⟩ := roundShift_cases m p
  · omega
  · have : m >>> p ≠ c := by
      intro e
      rw [e, Nat.add_mul, mul_assoc] at up
      omega
    omega

/-- Rounding does not pass a power of two. -/
theorem roundUnits_le {neg : Bool} {m k n : Nat} {w : F32} (h : roundUnits neg m k = .ok w) (hm : m ≤ 2 ^ (n + k)) :
    funits w ≤ 2 ^ n := by
  have hlog : m.log2 ≤ n + k := by
    rcases Nat.eq_zero_or_pos m with rfl | hpos
    · simp
    · exact Nat.lt_succ_iff.1 ((Nat.log2_lt hpos.ne').2 (hm.trans_lt (Nat.pow_lt_pow_succ (by decide))))
  have hp : roundPos m k ≤ n + k := by unfold roundPos; omega
  rw [(roundUnits_ok neg m k w h).2.2]
  calc roundShift m (roundPos m k) * 2 ^ (roundPos m k - k)
      ≤ 2 ^ (n + k - roundPos m k) * 2 ^ (roundPos m k - k) :=
        Nat.mul_le_mul_right _ (roundShift_le_of_le (by rwa [← pow_add, Nat.sub_add_cancel hp]))
    _ = 2 ^ n := by
        have := le_roundPos m k
        rw [← pow_add, show n + k - roundPos m k + (roundPos m k - k) = n by omega]

theorem pow_lt_overflow {n : Nat} (h : n ≤ 276) : 2 ^ n < 2 ^ 277 - 2 ^ 252 :=
  lt_of_le_of_lt (Nat.pow_le_pow_right (by decide) h) (by omega)

theorem fmul_atMost {i j : Nat} {a b : F32} (ha : atMost i a) (hb : atMost j b) (h : i + j ≤ 127) :
    ∃ w, fmul a b = .ok w ∧ atMost (i + j) w := by
  obtain ⟨fa, ua⟩ := ha
  obtain ⟨fb, ub⟩ := hb
  have hm : funits a * funits b ≤ 2 ^ (149 + (i + j) + 149) :=
    (Nat.mul_le_mul ua ub).trans_eq (by rw [← pow_add, show 149 + i + (149 + j) = 149 + (i + j) + 149 by omega])
  have range : 2 ^ (149 + (i + j)) < 2 ^ 277 - 2 ^ 252 := pow_lt_overflow (by omega)
  rw [fmul_rounds fa fb]
  obtain ⟨w, hw⟩ := (roundUnits_answers_iff (fsign a != fsign b) (stands_product (funits a * funits b))).2
    (lt_of_le_of_lt hm (by rw [pow_add]; exact Nat.mul_lt_mul_of_pos_right range (Nat.two_pow_pos _)))
  exact ⟨w, hw, (roundUnits_ok _ _ _ _ hw).1, roundUnits_le hw hm⟩

theorem fadd_atMost {n : Nat} {a b : F32} (ha : atMost n a) (hb : atMost n b) (h : n ≤ 126) :
    ∃ w, fadd a b = .ok w ∧ atMost (n + 1) w := by
  obtain ⟨fa, ua⟩ := ha
  obtain ⟨fb, ub⟩ := hb
  have hm : (fvalue a + fvalue b).natAbs ≤ 2 ^ (149 + (n + 1) + 0) := by
    have := Int.natAbs_add_le (fvalue a) (fvalue b)
    rw [fvalue_natAbs, fvalue_natAbs] at this
    rw [show 149 + (n + 1) + 0 = 149 + n + 1 by omega, pow_succ]
    omega
  obtain ⟨w, hw⟩ := (fadd_answers_iff fa fb).2 (lt_of_le_of_lt hm (pow_lt_overflow (by omega)))
  obtain ⟨-, -, fw, zero, rounds⟩ := fadd_ok a b w hw
  refine ⟨w, hw, fw, ?_⟩
  by_cases h0 : fvalue a + fvalue b = 0
  · rw [zero h0]; exact Nat.zero_le _
  · exact roundUnits_le (rounds h0) hm

theorem atMost_fneg {n : Nat} {a : F32} (h : atMost n a) : atMost n (fneg a) := by simpa [atMost] using h

/-- A complex product with a factor of parts at most 1 at most doubles the bound. -/
theorem cmul_bothAtMost {n : Nat} {a b : Cplx} (ha : bothAtMost n a) (hb : bothAtMost 0 b) (h : n ≤ 126) :
    ∃ z, cmul a b = .ok z ∧ bothAtMost (n + 1) z := by
  obtain ⟨are, aim⟩ := ha
  obtain ⟨bre, bim⟩ := hb
  obtain ⟨rr, hrr, brr⟩ := fmul_atMost are bre (by omega)
  obtain ⟨ii, hii, bii⟩ := fmul_atMost aim bim (by omega)
  obtain ⟨ri, hri, bri⟩ := fmul_atMost are bim (by omega)
  obtain ⟨ir, hir, bir⟩ := fmul_atMost aim bre (by omega)
  obtain ⟨re, hre, bre'⟩ := fadd_atMost brr (atMost_fneg bii) h
  obtain ⟨im, him, bim'⟩ := fadd_atMost bri bir h
  refine ⟨⟨re, im⟩, ?_, bre', bim'⟩
  simp only [cmul, fsub, bind_eq_ok, pure_eq_ok]
  exact ⟨rr, hrr, ii, hii, re, hre, ri, hri, ir, hir, im, him, rfl⟩

/-! ## The twiddles -/

/-- Both parts at most 1, as a test. -/
def unitParts (z : Cplx) : Bool := [z.re, z.im].all fun a => finite a && decide (funits a ≤ 2 ^ (149 + 0))

theorem unitParts_iff (z : Cplx) : unitParts z = true ↔ bothAtMost 0 z := by
  simp [unitParts, bothAtMost, atMost]

/-- Whether the twiddle of a stage, and its first power, answer with parts at most 1. -/
def twiddleTest (st : Nat) : Bool :=
  match stageTwiddle st with
  | .error _ => false
  | .ok wm => unitParts wm && match cmul cone wm with
    | .error _ => false
    | .ok w => unitParts w

theorem twiddleTest_stages : (List.range' 1 8).all twiddleTest = true := by decide +kernel

theorem stageTwiddle_answers {st : Nat} (h1 : 1 ≤ st) (h8 : st ≤ 8) :
    ∃ wm w, stageTwiddle st = .ok wm ∧ cmul cone wm = .ok w ∧ bothAtMost 0 wm ∧ bothAtMost 0 w := by
  have test := List.all_eq_true.1 twiddleTest_stages st (by simp; omega)
  unfold twiddleTest at test
  split at test
  · cases test
  next wm hwm =>
    rw [Bool.and_eq_true] at test
    obtain ⟨twm, tw⟩ := test
    split at tw
    · cases tw
    next w hw => exact ⟨wm, w, hwm, hw, (unitParts_iff wm).1 twm, (unitParts_iff w).1 tw⟩

/-- From the first power on, each power of a stage's twiddle at most doubles the bound, so 128 of them stay in range. -/
theorem twiddlePower_answers {st : Nat} (h1 : 1 ≤ st) (h8 : st ≤ 8) {wm : Cplx} (hwm : stageTwiddle st = .ok wm)
    (j : Nat) (hj : j ≤ 128) : ∃ w, twiddlePower wm j = .ok w := by
  obtain ⟨wm', w1, hwm', hw1, bwm, bw1⟩ := stageTwiddle_answers h1 h8
  obtain rfl : wm' = wm := Except.ok.inj (hwm'.symm.trans hwm)
  have bounded (i : Nat) (hi : i < 128) : ∃ w, twiddlePower wm' (i + 1) = .ok w ∧ bothAtMost i w := by
    induction i with
    | zero => exact ⟨w1, hw1, bw1⟩
    | succ i ih =>
      obtain ⟨w, hw, bw⟩ := ih (by omega)
      obtain ⟨z, hz, bz⟩ := cmul_bothAtMost bw bwm (by omega)
      exact ⟨z, by rw [twiddlePower, hw]; exact hz, bz⟩
  cases j with
  | zero => exact ⟨cone, rfl⟩
  | succ i =>
    obtain ⟨w, hw, -⟩ := bounded i (by omega)
    exact ⟨w, hw⟩

end Sys2Proof.Machine
end

section
/-! The lists a run of the pipeline computes (R70 to R95), element by element, and the stores that hold them. -/

namespace Sys2Proof.Machine

/-! ## Bytes and Samples -/

theorem unpackBytes_getElem? (l : List Byte) (i : Nat) :
    (unpackBytes l)[i]? = (l[2 * i]?).bind fun lo => (l[2 * i + 1]?).map fun hi => sampleOf lo hi := by
  induction l using unpackBytes.induct generalizing i with
  | case1 lo hi t ih =>
    cases i with
    | zero => simp [unpackBytes]
    | succ i => simpa [unpackBytes, Nat.mul_add] using ih i
  | case2 l short =>
    rcases l with _ | ⟨a, _ | ⟨b, t⟩⟩
    · simp [unpackBytes]
    · cases i <;> simp [unpackBytes]
    · exact absurd rfl (short a b t)

theorem packSamples_length (l : List Sample) : (packSamples l).length = 2 * l.length := by
  induction l with
  | nil => rfl
  | cons v t ih => simp [packSamples, ih]; omega

theorem packSamples_getElem? (l : List Sample) (i : Nat) :
    (packSamples l)[i]? = (l[i / 2]?).map fun v => if i % 2 = 0 then lowByte v else highByte v := by
  induction l generalizing i with
  | nil => simp [packSamples]
  | cons v t ih =>
    match i with
    | 0 => rfl
    | 1 => rfl
    | i + 2 => simpa [packSamples, Nat.add_div_right] using ih i

/-! ## The mask and the bit reversal -/

theorem maskFrom_getElem? (kMin kMax i : Nat) (l : List Cplx) (j : Nat) :
    (maskFrom kMin kMax i l)[j]? = (l[j]?).map fun z => if masked kMin kMax (i + j) then czero else z := by
  induction l generalizing i j with
  | nil => rfl
  | cons z t ih =>
    cases j with
    | zero => rfl
    | succ j => simpa [maskFrom, Nat.add_assoc, Nat.add_comm 1] using ih (i + 1) j

theorem maskSpectrum_getElem? (kMin kMax : Nat) (l : List Cplx) (j : Nat) :
    (maskSpectrum kMin kMax l)[j]? = (l[j]?).map fun z => if masked kMin kMax j then czero else z := by
  rw [maskSpectrum, maskFrom_getElem?, Nat.zero_add]

theorem maskFrom_length (kMin kMax i : Nat) (l : List Cplx) : (maskFrom kMin kMax i l).length = l.length := by
  induction l generalizing i with
  | nil => rfl
  | cons z t ih => simp [maskFrom, ih]

theorem maskSpectrum_length (kMin kMax : Nat) (l : List Cplx) : (maskSpectrum kMin kMax l).length = l.length :=
  maskFrom_length kMin kMax 0 l

theorem swapElems_length {α : Type} (l : List α) (i j : Nat) : (swapElems l i j).length = l.length := by
  unfold swapElems; split <;> simp

theorem goldRader_length {α : Type} (n i j : Nat) (l : List α) : (goldRader n i j l).length = l.length := by
  induction n generalizing i j l with
  | zero => rfl
  | succ n ih => rw [goldRader, ih]; split <;> simp [swapElems_length]

theorem bitReverse_length {α : Type} (l : List α) : (bitReverse l).length = l.length := goldRader_length 255 0 0 l

/-! ## Loops that fill a buffer -/

/-- The first `n` elements of `src` have been mapped, and each image stands where `holds` says. -/
def DoneBefore {α β : Type} (f : α → Except Fault β) (src : List α) (holds : Nat → β → Prop) (n : Nat) : Prop :=
  ∀ j, j < n → ∃ a b, src[j]? = some a ∧ f a = .ok b ∧ holds j b

namespace DoneBefore

variable {α β : Type} {f : α → Except Fault β} {src : List α} {holds holds' : Nat → β → Prop} {n : Nat}

theorem zero : DoneBefore f src holds 0 := fun j hj => absurd hj (Nat.not_lt_zero j)

/-- One more turn of the loop, which leaves the images before it where they stand. -/
theorem next (h : DoneBefore f src holds n) {a : α} {b : β} (ha : src[n]? = some a) (hf : f a = .ok b)
    (new : holds' n b) (old : ∀ j c, j < n → holds j c → holds' j c) : DoneBefore f src holds' (n + 1) := by
  intro j hj
  rcases Nat.lt_succ_iff_lt_or_eq.1 hj with lt | rfl
  · obtain ⟨a, b, ha, hf, hb⟩ := h j lt
    exact ⟨a, b, ha, hf, old j b lt hb⟩
  · exact ⟨a, b, ha, hf, new⟩

/-- The whole loop is `mapChecked`. -/
theorem all (h : DoneBefore f src holds src.length) :
    ∃ r, mapChecked f src = .ok r ∧ r.length = src.length ∧ ∀ j b, r[j]? = some b → holds j b := by
  induction src generalizing holds with
  | nil => exact ⟨[], rfl, rfl, fun j b hb => by simp at hb⟩
  | cons a t ih =>
    obtain ⟨a', b, ha, hf, hb⟩ := h 0 (by simp)
    obtain rfl : a = a' := by simpa using ha
    obtain ⟨r, hr, hlen, hall⟩ := ih (holds := fun j => holds (j + 1)) fun j hj => by simpa using h (j + 1) (by simpa using hj)
    refine ⟨b :: r, by simp [mapChecked, bind_eq_ok, hf, hr], by simp [hlen], fun j c hc => ?_⟩
    cases j with
    | zero => obtain rfl : b = c := by simpa using hc
              exact hb
    | succ j => exact hall j c (by simpa using hc)

end DoneBefore

/-! ## Stores of 256 elements -/

/-- The store holds the 256 elements of the list. -/
def Stored {α : Type} (st : Store α) (l : List α) : Prop := l.length = 256 ∧ ∀ i, i < 256 → readCell st i = l[i]?

theorem readRun_eq_ok_iff_stored {α : Type} (st : Store α) (l : List α) : readRun st 0 256 = .ok l ↔ Stored st l := by
  simp [readRun_eq_ok, Stored]

theorem spectrum_eq_ok (w : Workspace) (l : List Cplx) : w.spectrum = .ok l ↔ Stored w.x l :=
  readRun_eq_ok_iff_stored w.x l

namespace Stored

variable {α β : Type} {st : Store α} {l : List α}

theorem unique {l' : List α} (h : Stored st l) (h' : Stored st l') : l = l' :=
  Except.ok.inj (((readRun_eq_ok_iff_stored st l).2 h).symm.trans ((readRun_eq_ok_iff_stored st l').2 h'))

theorem full (h : l.length = 256) : Stored (fullStore l) l := ⟨h, fun i _ => by simp⟩

theorem write (h : Stored st l) {i : Nat} (hi : i < 256) (v : α) : Stored (writeCell st i v) (l.set i v) := by
  refine ⟨by simp [h.1], fun j hj => ?_⟩
  rw [readCell_writeCell, List.getElem?_set, h.2 j hj, h.1]
  simp [hi]

theorem read (h : Stored st l) {i : Nat} {v : α} (hi : i < 256) (hv : readElem st i = .ok v) : l[i]? = some v := by
  rw [← h.2 i hi]; exact (readElem_eq_ok st i v).1 hv

/-- A loop that has filled the store leaves it holding the images. -/
theorem of_done {f : β → Except Fault α} {src : List β} (len : src.length = 256)
    (h : DoneBefore f src (fun j b => readCell st j = some b) 256) : ∃ r, mapChecked f src = .ok r ∧ Stored st r := by
  rw [← len] at h
  obtain ⟨r, hr, hlen, hall⟩ := h.all
  refine ⟨r, hr, hlen.trans len, fun i hi => ?_⟩
  have : i < r.length := by omega
  rw [List.getElem?_eq_getElem this]
  exact hall i _ (List.getElem?_eq_getElem this)

end Stored

/-- One more image written to a store. -/
theorem DoneBefore.write {α β : Type} {f : α → Except Fault β} {src : List α} {st : Store β} {n : Nat}
    (h : DoneBefore f src (fun j b => readCell st j = some b) n) {a : α} {b : β} (ha : src[n]? = some a)
    (hf : f a = .ok b) : DoneBefore f src (fun j c => readCell (writeCell st n b) j = some c) (n + 1) :=
  h.next ha hf (by simp) fun j c hj hc => by rwa [readCell_writeCell_other _ _ (by omega)]

/-! ## The operands and the answer of a run -/

/-- FIN read whole, and sample by sample. -/
theorem finSamples_spec {s : State} {v : List Sample} (h : s.finSamples = .ok v) :
    v.length = 256 ∧ ∀ i q, i < 256 → s.finSample i = .ok q → v[i]? = some q := by
  simp only [State.finSamples, bind_eq_ok, pure_eq_ok] at h
  obtain ⟨b, hb, rfl⟩ := h
  obtain ⟨hlen, hall⟩ := (readRun_eq_ok _ _ _ _).1 hb
  have bytes (i : Nat) (hi : i < 512) : readCell s.cons.fin i = b[i]? := by simpa using hall i hi
  refine ⟨?_, fun i q hi hq => ?_⟩
  · have at255 : (unpackBytes b)[255]? ≠ none := by
      rw [unpackBytes_getElem?, List.getElem?_eq_getElem (by omega), List.getElem?_eq_getElem (by omega)]; simp
    have at256 : (unpackBytes b)[256]? = none := by
      rw [unpackBytes_getElem?, List.getElem?_eq_none (by omega)]; rfl
    rw [ne_eq, List.getElem?_eq_none_iff] at at255
    rw [List.getElem?_eq_none_iff] at at256
    omega
  · simp only [State.finSample, bind_eq_ok, readElem_eq_ok, pure_eq_ok] at hq
    obtain ⟨lo, hlo, hi', hhi, rfl⟩ := hq
    rw [unpackBytes_getElem?, ← bytes _ (by omega), ← bytes _ (by omega), hlo, hhi]
    rfl

/-- The parts of `filterFrame` (R95), each an answer. -/
theorem filterFrame_eq_ok (kMin kMax : Nat) (v : List Sample) (r : Filtered) :
    filterFrame kMin kMax v = .ok r ↔ ∃ x, fftFrame v = .ok x ∧ r.x = maskSpectrum kMin kMax x ∧
      phaseTable = .ok r.table ∧ ifftFrame r.table r.x = .ok r.y ∧ mapChecked narrowWord r.y = .ok r.out := by
  simp only [filterFrame, bind_eq_ok, pure_eq_ok]
  constructor
  · rintro ⟨x, hx, table, ht, y, hy, out, ho, rfl⟩
    exact ⟨x, hx, rfl, ht, hy, ho⟩
  · rintro ⟨x, hx, hm, ht, hy, ho⟩
    exact ⟨x, hx, r.table, ht, r.y, hm ▸ hy, r.out, ho, by rw [← hm]⟩

/-- The filtered frame has 256 Samples, like the frame. -/
theorem filterFrame_out_length {kMin kMax : Nat} {v : List Sample} {r : Filtered} (h : filterFrame kMin kMax v = .ok r) :
    r.out.length = 256 := by
  obtain ⟨x, -, -, -, hy, ho⟩ := (filterFrame_eq_ok kMin kMax v r).1 h
  rw [mapChecked_length _ _ _ ho, mapChecked_length _ _ _ hy, List.length_range]

end Sys2Proof.Machine
end

section
/-! The sequencer computes `filterFrame` (R95, R120): an invariant says, in each of its loops, what has been computed; every
operation keeps it, and the last one leaves the filtered frame in FOUT. -/

namespace Sys2Proof.Machine

/-! ## The stages of the transform, from any butterfly on -/

/-- What is left of `fft` (R75) before butterfly `i` of the block at `blk` of stage `st`, with `nb` blocks after this one. -/
def stageRest (st nb blk i : Nat) (wm w : Cplx) (x : List Cplx) : Except Fault (List Cplx) :=
  blockLoop wm (2 ^ (st - 1)) (2 ^ (st - 1) - i) (blk + i) w x >>= fun x' =>
    stageLoop wm (2 ^ (st - 1)) nb (blk + 2 * 2 ^ (st - 1)) x' >>= fun x'' => fftStages (8 - st) (st + 1) x''

@[simp] theorem ok_bind {α β ε : Type} (a : α) (f : α → Except ε β) : ((Except.ok a : Except ε α) >>= f) = f a := rfl

theorem stageRest_butterfly {st nb blk i : Nat} {wm w w' even odd : Cplx} {x : List Cplx} {r : Cplx × Cplx}
    (hi : i < 2 ^ (st - 1)) (heven : x[blk + i]? = some even) (hodd : x[blk + i + 2 ^ (st - 1)]? = some odd)
    (hr : butterflyPair w even odd = .ok r) (hw : cmul w wm = .ok w') :
    stageRest st nb blk i wm w x =
      stageRest st nb blk (i + 1) wm w' ((x.set (blk + i) r.1).set (blk + i + 2 ^ (st - 1)) r.2) := by
  have turn : 2 ^ (st - 1) - i = 2 ^ (st - 1) - (i + 1) + 1 := by omega
  have he : elemOf x (blk + i) = .ok even := (elemOf_eq_ok _ _ _).2 heven
  have ho : elemOf x (blk + i + 2 ^ (st - 1)) = .ok odd := (elemOf_eq_ok _ _ _).2 hodd
  have hb : butterflyAt (2 ^ (st - 1)) (blk + i) w x =
      .ok ((x.set (blk + i) r.1).set (blk + i + 2 ^ (st - 1)) r.2) := by
    simp only [butterflyAt, he, ho, hr, ok_bind]
    rfl
  simp only [stageRest, turn, blockLoop, hb, hw, ok_bind, Nat.add_assoc]

theorem stageRest_block (st nb blk : Nat) (wm w : Cplx) (x : List Cplx) :
    stageRest st (nb + 1) blk (2 ^ (st - 1)) wm w x = stageRest st nb (blk + 2 * 2 ^ (st - 1)) 0 wm cone x := by
  simp only [stageRest, Nat.sub_self, blockLoop, stageLoop, ok_bind, Nat.sub_zero, Nat.add_zero, bind_assoc]

/-- The stages from `st` on begin with its first block. -/
theorem fftStages_eq {st : Nat} (h8 : st ≤ 8) {wm : Cplx} (hwm : stageTwiddle st = .ok wm) (x : List Cplx) :
    fftStages (9 - st) st x = stageRest st (2 ^ (8 - st) - 1) 0 0 wm cone x := by
  have turn : 9 - st = 8 - st + 1 := by omega
  obtain ⟨n, hn⟩ := Nat.exists_eq_succ_of_ne_zero (Nat.two_pow_pos (8 - st)).ne'
  rw [turn, fftStages, fftStage, hwm, ok_bind, hn, stageLoop]
  simp only [stageRest, Nat.succ_sub_one, Nat.sub_zero, Nat.add_zero, Nat.zero_add, bind_assoc]

theorem stageRest_stage {st blk : Nat} (h8 : st < 8) {wm wm' w : Cplx} (hwm : stageTwiddle (st + 1) = .ok wm')
    (x : List Cplx) :
    stageRest st 0 blk (2 ^ (st - 1)) wm w x = stageRest (st + 1) (2 ^ (8 - (st + 1)) - 1) 0 0 wm' cone x := by
  rw [← fftStages_eq (by omega) hwm x, show 9 - (st + 1) = 8 - st by omega]
  simp only [stageRest, Nat.sub_self, blockLoop, stageLoop, ok_bind]

theorem stageRest_last (blk : Nat) (wm w : Cplx) (x : List Cplx) : stageRest 8 0 blk (2 ^ (8 - 1)) wm w x = .ok x := by
  simp only [stageRest, Nat.sub_self, blockLoop, stageLoop, ok_bind, fftStages]

theorem fftFrame_eq {v : List Sample} {x : List Cplx} (hx : mapChecked widenComplex v = .ok x) {wm : Cplx}
    (hwm : stageTwiddle 1 = .ok wm) : fftFrame v = stageRest 1 (2 ^ (8 - 1) - 1) 0 0 wm cone (bitReverse x) := by
  rw [← fftStages_eq (by omega) hwm, fftFrame, hx, ok_bind]

/-! ## What the sequencer has computed -/

/-- What stands in the pipeline's storage and FOUT when the sequencer stands where its counters say, for the Samples `v` of FIN. -/
inductive Progress (v : List Sample) (s : State) : Prop
  | widen (ph : s.pipe.phase = .widen) (hi : s.pipe.indexCtr < 256)
      (done : DoneBefore widenComplex v (fun j z => readCell s.pipe.x j = some z) s.pipe.indexCtr)
  | bitrev (ph : s.pipe.phase = .bitrev) (x : List Cplx) (hx : mapChecked widenComplex v = .ok x)
      (stored : Stored s.pipe.x x)
  | stages (ph : s.pipe.phase = .stages) (x : List Cplx) (wm w : Cplx) (nb : Nat) (h1 : 1 ≤ s.pipe.stageCtr)
      (h8 : s.pipe.stageCtr ≤ 8) (hi : s.pipe.indexCtr < 2 ^ (s.pipe.stageCtr - 1))
      (hb : s.pipe.blockCtr + 2 * 2 ^ (s.pipe.stageCtr - 1) * (nb + 1) = 256)
      (hwm : stageTwiddle s.pipe.stageCtr = .ok wm) (hw : twiddlePower wm s.pipe.indexCtr = .ok w)
      (stored : Stored s.pipe.x x)
      (rest : fftFrame v = stageRest s.pipe.stageCtr nb s.pipe.blockCtr s.pipe.indexCtr wm w x)
  | mask (ph : s.pipe.phase = .mask) (hi : s.pipe.indexCtr < 256) (x : List Cplx) (hx : fftFrame v = .ok x)
      (len : x.length = 256)
      (done : ∀ j, j < 256 → readCell s.pipe.x j =
        if j < s.pipe.indexCtr then (maskSpectrum s.cfg.kMin s.cfg.kMax x)[j]? else x[j]?)
  | phases (ph : s.pipe.phase = .phases) (hi : s.pipe.indexCtr < 256) (x : List Cplx) (hx : fftFrame v = .ok x)
      (stored : Stored s.pipe.x (maskSpectrum s.cfg.kMin s.cfg.kMax x))
      (done : DoneBefore phasePair (List.range 256)
        (fun j c => readCell s.pipe.cosp j = some c.re ∧ readCell s.pipe.sinp j = some c.im) s.pipe.indexCtr)
  | sums (ph : s.pipe.phase = .sums) (hi : s.pipe.indexCtr < 256) (x table : List Cplx) (hx : fftFrame v = .ok x)
      (stored : Stored s.pipe.x (maskSpectrum s.cfg.kMin s.cfg.kMax x)) (ht : phaseTable = .ok table)
      (hc : Stored s.pipe.cosp (table.map Cplx.re)) (hs : Stored s.pipe.sinp (table.map Cplx.im))
      (done : DoneBefore (ifftSum table (maskSpectrum s.cfg.kMin s.cfg.kMax x)) (List.range 256)
        (fun j y => readCell s.pipe.y j = some y) s.pipe.indexCtr)
  | narrow (ph : s.pipe.phase = .narrow) (hi : s.pipe.indexCtr < 256) (x table : List Cplx) (y : List F32)
      (hx : fftFrame v = .ok x) (ht : phaseTable = .ok table)
      (hy : ifftFrame table (maskSpectrum s.cfg.kMin s.cfg.kMax x) = .ok y) (stored : Stored s.pipe.y y)
      (done : DoneBefore narrowWord y (fun j o => readCell s.cons.fout j = some o) s.pipe.indexCtr)

/-- PROCESSING has ended: FOUT is the filtered frame and its first byte is offered (R117). -/
structure Published (v : List Sample) (s : State) : Prop where
  state : s.cons.state = codeEmitting
  emitIdx : s.cons.emitIdx = 0#10
  outValid : s.cons.outValid = true
  outData : s.cons.outData = sofByte
  filtered : ∃ r, filterFrame s.cfg.kMin s.cfg.kMax v = .ok r ∧ Stored s.cons.fout r.out

/-! ## The loops of 256 turns -/

theorem State.nextIndex_more {s : State} (ph : PipePhase) (n : Nat) (h : s.pipe.indexCtr < 255) :
    s.nextIndex ph n = { s with pipe := { s.pipe with indexCtr := s.pipe.indexCtr + 1 } } := by
  rw [State.nextIndex, if_pos h]

theorem State.nextIndex_last {s : State} (ph : PipePhase) (n : Nat) (h : ¬ s.pipe.indexCtr < 255) :
    s.nextIndex ph n = s.atPhase ph n := by rw [State.nextIndex, if_neg h]

theorem Progress.pipeOp_widen {v : List Sample} {s t : State} (hv : s.finSamples = .ok v) (ph : s.pipe.phase = .widen)
    (hi : s.pipe.indexCtr < 256)
    (done : DoneBefore widenComplex v (fun j z => readCell s.pipe.x j = some z) s.pipe.indexCtr)
    (h : pipeOp s = .ok t) : Progress v t := by
  obtain ⟨q, z, hq, hz, rfl⟩ := (Machine.pipeOp_widen s t ph).1 h
  have hvq : v[s.pipe.indexCtr]? = some q := (finSamples_spec hv).2 _ _ hi hq
  have done' := done.write hvq hz
  by_cases more : s.pipe.indexCtr < 255
  · rw [State.nextIndex_more _ _ (by exact more)]
    exact .widen ph (Nat.succ_lt_succ more) done'
  · rw [State.nextIndex_last _ _ (by exact more)]
    rw [show s.pipe.indexCtr + 1 = 256 by omega] at done'
    obtain ⟨x, hx, stored⟩ := Stored.of_done (finSamples_spec hv).1 done'
    exact .bitrev rfl x hx stored

theorem Progress.pipeOp_bitrev {v : List Sample} {s t : State} (ph : s.pipe.phase = .bitrev) {x : List Cplx}
    (hx : mapChecked widenComplex v = .ok x) (stored : Stored s.pipe.x x) (h : pipeOp s = .ok t) : Progress v t := by
  obtain ⟨x', hx', rfl⟩ := (Machine.pipeOp_bitrev s t ph).1 h
  obtain rfl := stored.unique ((spectrum_eq_ok _ _).1 hx')
  obtain ⟨wm, -, hwm, -⟩ := stageTwiddle_answers (st := 1) (by decide) (by decide)
  have len := (bitReverse_length x).trans stored.1
  have rest := fftFrame_eq hx hwm
  generalize bitReverse x = y at *
  exact .stages rfl y wm cone (2 ^ (8 - 1) - 1) (by simp) (by simp) (by simp) (by simp) hwm rfl (Stored.full len) rest

/-- The blocks of a stage that are left fill the spectrum to its end. -/
theorem blocks_of_stage {st : Nat} (h1 : 1 ≤ st) (h8 : st ≤ 8) : 2 * 2 ^ (st - 1) * (2 ^ (8 - st) - 1 + 1) = 256 := by
  rw [Nat.sub_add_cancel (Nat.two_pow_pos _), ← pow_succ', ← pow_add, show st - 1 + 1 + (8 - st) = 8 by omega]
  rfl

theorem Progress.pipeOp_stages {v : List Sample} {s t : State} (ph : s.pipe.phase = .stages) {x : List Cplx} {wm w : Cplx}
    {nb : Nat} (h1 : 1 ≤ s.pipe.stageCtr) (h8 : s.pipe.stageCtr ≤ 8)
    (hi : s.pipe.indexCtr < 2 ^ (s.pipe.stageCtr - 1))
    (hb : s.pipe.blockCtr + 2 * 2 ^ (s.pipe.stageCtr - 1) * (nb + 1) = 256)
    (hwm : stageTwiddle s.pipe.stageCtr = .ok wm) (hw : twiddlePower wm s.pipe.indexCtr = .ok w) (stored : Stored s.pipe.x x)
    (rest : fftFrame v = stageRest s.pipe.stageCtr nb s.pipe.blockCtr s.pipe.indexCtr wm w x)
    (h : pipeOp s = .ok t) : Progress v t := by
  obtain ⟨wm', w', even, odd, r, hwm', hw', heven, hodd, hr, rfl⟩ := (Machine.pipeOp_stages s t ph).1 h
  obtain rfl : wm = wm' := Except.ok.inj (hwm.symm.trans hwm')
  obtain rfl : w = w' := Except.ok.inj (hw.symm.trans hw')
  have small : 2 ^ (s.pipe.stageCtr - 1) ≤ 2 ^ 7 := Nat.pow_le_pow_right (by decide) (by omega)
  obtain ⟨w', hw'⟩ := twiddlePower_answers h1 h8 hwm (s.pipe.indexCtr + 1) (by omega)
  have hmul : cmul w wm = .ok w' := by simpa [twiddlePower, hw] using hw'
  have block : s.pipe.blockCtr + 2 * 2 ^ (s.pipe.stageCtr - 1) + 2 * 2 ^ (s.pipe.stageCtr - 1) * nb = 256 := by
    rw [← hb]; ring
  have hp : s.pipe.blockCtr + s.pipe.indexCtr < 256 := by omega
  have hq : s.pipe.blockCtr + s.pipe.indexCtr + 2 ^ (s.pipe.stageCtr - 1) < 256 := by omega
  rw [stageRest_butterfly hi (stored.read hp heven) (stored.read hq hodd) hr hmul] at rest
  have stored' := (stored.write hp r.1).write hq r.2
  by_cases inBlock : s.pipe.indexCtr + 1 < 2 ^ (s.pipe.stageCtr - 1)
  · simp only [State.nextButterfly, inBlock, if_true]
    exact .stages ph _ wm w' nb h1 h8 inBlock hb hwm hw' stored' rest
  have ends : s.pipe.indexCtr + 1 = 2 ^ (s.pipe.stageCtr - 1) := by omega
  rw [ends] at rest
  by_cases inStage : s.pipe.blockCtr + 2 * 2 ^ (s.pipe.stageCtr - 1) < 256
  · obtain ⟨n, rfl⟩ := Nat.exists_eq_succ_of_ne_zero (n := nb) (by rintro rfl; omega)
    simp only [State.nextButterfly, inBlock, inStage, if_true, if_false]
    exact .stages ph _ wm cone n h1 h8 (Nat.two_pow_pos _) block hwm rfl stored' ((stageRest_block ..) ▸ rest)
  obtain rfl : nb = 0 := by
    have := Nat.two_pow_pos (s.pipe.stageCtr - 1)
    rcases Nat.mul_eq_zero.1 (show 2 * 2 ^ (s.pipe.stageCtr - 1) * nb = 0 by omega) with h | h <;> omega
  by_cases inStages : s.pipe.stageCtr < 8
  · obtain ⟨wm', -, hwm', -⟩ := stageTwiddle_answers (st := s.pipe.stageCtr + 1) (by omega) (by omega)
    simp only [State.nextButterfly, inBlock, inStage, inStages, if_true, if_false]
    exact .stages rfl _ wm' cone _ (Nat.le_add_left 1 _) inStages (Nat.two_pow_pos _)
      ((Nat.zero_add _).trans (blocks_of_stage (Nat.le_add_left 1 _) inStages)) hwm' rfl stored'
      ((stageRest_stage inStages hwm' _) ▸ rest)
  · obtain last : s.pipe.stageCtr = 8 := by omega
    simp only [State.nextButterfly, inBlock, inStage, inStages, if_false]
    generalize (x.set _ r.1).set _ r.2 = x' at rest stored'
    rw [last, stageRest_last] at rest
    exact .mask rfl (Nat.zero_lt_succ _) x' rest stored'.1 fun j hj =>
      (stored'.2 j hj).trans (if_neg (Nat.not_lt_zero j)).symm

theorem Progress.pipeOp_mask {v : List Sample} {s t : State} (ph : s.pipe.phase = .mask) (hi : s.pipe.indexCtr < 256)
    {x : List Cplx} (hx : fftFrame v = .ok x) (len : x.length = 256)
    (done : ∀ j, j < 256 → readCell s.pipe.x j =
      if j < s.pipe.indexCtr then (maskSpectrum s.cfg.kMin s.cfg.kMax x)[j]? else x[j]?)
    (h : pipeOp s = .ok t) : Progress v t := by
  obtain rfl := (Machine.pipeOp_mask s t ph).1 h
  have done' (j : Nat) (hj : j < 256) : readCell (if masked s.cfg.kMin s.cfg.kMax s.pipe.indexCtr then
      writeCell s.pipe.x s.pipe.indexCtr czero else s.pipe.x) j =
      if j < s.pipe.indexCtr + 1 then (maskSpectrum s.cfg.kMin s.cfg.kMax x)[j]? else x[j]? := by
    have here : x[s.pipe.indexCtr]? = some x[s.pipe.indexCtr] := List.getElem?_eq_getElem (by omega)
    rcases eq_or_ne s.pipe.indexCtr j with rfl | other
    · rw [if_pos (Nat.lt_succ_self _), maskSpectrum_getElem?, here, Option.map_some]
      split
      · exact readCell_writeCell_same ..
      · rw [done _ hj, if_neg (Nat.lt_irrefl _), here]
    · have same : j < s.pipe.indexCtr + 1 ↔ j < s.pipe.indexCtr := by omega
      simp only [same, ← done j hj]
      split
      · exact readCell_writeCell_other _ _ other
      · rfl
  by_cases more : s.pipe.indexCtr < 255
  · rw [State.nextIndex_more _ _ (by exact more)]
    exact .mask ph (Nat.succ_lt_succ more) x hx len done'
  · rw [State.nextIndex_last _ _ (by exact more)]
    refine .phases rfl (Nat.zero_lt_succ _) x hx ⟨(maskSpectrum_length ..).trans len, fun j hj => ?_⟩ .zero
    exact (done' j hj).trans (if_pos (by omega))

theorem Progress.pipeOp_phases {v : List Sample} {s t : State} (ph : s.pipe.phase = .phases) (hi : s.pipe.indexCtr < 256)
    {x : List Cplx} (hx : fftFrame v = .ok x) (stored : Stored s.pipe.x (maskSpectrum s.cfg.kMin s.cfg.kMax x))
    (done : DoneBefore phasePair (List.range 256)
      (fun j c => readCell s.pipe.cosp j = some c.re ∧ readCell s.pipe.sinp j = some c.im) s.pipe.indexCtr)
    (h : pipeOp s = .ok t) : Progress v t := by
  obtain ⟨c, hc, rfl⟩ := (Machine.pipeOp_phases s t ph).1 h
  have done' := done.next (List.getElem?_range hi) hc (holds' := fun j d =>
      readCell (writeCell s.pipe.cosp s.pipe.indexCtr c.re) j = some d.re ∧
        readCell (writeCell s.pipe.sinp s.pipe.indexCtr c.im) j = some d.im) (by simp) fun j d hj hd => by
    rwa [readCell_writeCell_other _ _ (by omega), readCell_writeCell_other _ _ (by omega)]
  by_cases more : s.pipe.indexCtr < 255
  · rw [State.nextIndex_more _ _ (by exact more)]
    exact .phases ph (Nat.succ_lt_succ more) x hx stored done'
  · rw [State.nextIndex_last _ _ (by exact more)]
    rw [show s.pipe.indexCtr + 1 = (List.range 256).length by rw [List.length_range]; omega] at done'
    obtain ⟨table, ht, len, hall⟩ := done'.all
    rw [List.length_range] at len
    have cell (j : Nat) (hj : j < 256) : table[j]? = some table[j] := List.getElem?_eq_getElem (by omega)
    refine .sums rfl (Nat.zero_lt_succ _) x table hx stored ht ⟨by simpa using len, fun j hj => ?_⟩
      ⟨by simpa using len, fun j hj => ?_⟩ .zero
    · rw [List.getElem?_map, cell j hj]; exact (hall j _ (cell j hj)).1
    · rw [List.getElem?_map, cell j hj]; exact (hall j _ (cell j hj)).2

/-- The two tables joined are the phase table (R79). -/
theorem zipWith_parts (table : List Cplx) :
    List.zipWith Cplx.mk (table.map Cplx.re) (table.map Cplx.im) = table := by
  induction table with
  | nil => rfl
  | cons c t ih => simp [ih]

theorem Progress.pipeOp_sums {v : List Sample} {s t : State} (ph : s.pipe.phase = .sums) (hi : s.pipe.indexCtr < 256)
    {x table : List Cplx} (hx : fftFrame v = .ok x) (stored : Stored s.pipe.x (maskSpectrum s.cfg.kMin s.cfg.kMax x))
    (ht : phaseTable = .ok table) (hc : Stored s.pipe.cosp (table.map Cplx.re))
    (hs : Stored s.pipe.sinp (table.map Cplx.im))
    (done : DoneBefore (ifftSum table (maskSpectrum s.cfg.kMin s.cfg.kMax x)) (List.range 256)
      (fun j y => readCell s.pipe.y j = some y) s.pipe.indexCtr)
    (h : pipeOp s = .ok t) : Progress v t := by
  obtain ⟨cs, sn, x', y, hcs, hsn, hx', hy, rfl⟩ := (Machine.pipeOp_sums s t ph).1 h
  obtain rfl := hc.unique ((readRun_eq_ok_iff_stored _ _).1 hcs)
  obtain rfl := hs.unique ((readRun_eq_ok_iff_stored _ _).1 hsn)
  obtain rfl := stored.unique ((spectrum_eq_ok _ _).1 hx')
  rw [zipWith_parts] at hy
  have done' := done.write (List.getElem?_range hi) hy
  by_cases more : s.pipe.indexCtr < 255
  · rw [State.nextIndex_more _ _ (by exact more)]
    exact .sums ph (Nat.succ_lt_succ more) x table hx stored ht hc hs done'
  · rw [State.nextIndex_last _ _ (by exact more)]
    rw [show s.pipe.indexCtr + 1 = 256 by omega] at done'
    obtain ⟨ys, hys, stored'⟩ := Stored.of_done List.length_range done'
    exact .narrow rfl (Nat.zero_lt_succ _) x table ys hx ht hys stored' .zero

theorem Progress.pipeOp_narrow {v : List Sample} {s t : State} (hp : s.cons.state = codeProcessing)
    (ph : s.pipe.phase = .narrow) (hi : s.pipe.indexCtr < 256)
    {x table : List Cplx} {y : List F32} (hx : fftFrame v = .ok x) (ht : phaseTable = .ok table)
    (hy : ifftFrame table (maskSpectrum s.cfg.kMin s.cfg.kMax x) = .ok y) (stored : Stored s.pipe.y y)
    (done : DoneBefore narrowWord y (fun j o => readCell s.cons.fout j = some o) s.pipe.indexCtr)
    (h : pipeOp s = .ok t) : (t.cons.state = codeProcessing ∧ Progress v t) ∨ Published v t := by
  obtain ⟨z, o, hz, ho, rfl⟩ := (Machine.pipeOp_narrow s t ph).1 h
  have done' := done.write (stored.read hi hz) ho
  by_cases more : s.pipe.indexCtr < 255
  · left
    simp only [more, if_true]
    rw [State.nextIndex_more _ _ (by exact more)]
    exact ⟨hp, .narrow ph (Nat.succ_lt_succ more) x table y hx ht hy stored done'⟩
  · right
    simp only [more, if_false]
    rw [show s.pipe.indexCtr + 1 = 256 by omega] at done'
    obtain ⟨out, hout, stored'⟩ := Stored.of_done stored.1 done'
    refine ⟨rfl, rfl, rfl, rfl, ⟨_, table, y, out⟩, (filterFrame_eq_ok _ _ _ _).2 ⟨x, hx, rfl, ht, ?_, hout⟩, ?_⟩
    · simp only [State.processPublished_cfg, State.nextIndex_cfg]; exact hy
    · simpa using stored'

/-! ## A run of the sequencer -/

/-- An operation of the sequencer keeps what has been computed, or is the last one. -/
theorem Progress.pipeOp {v : List Sample} {s t : State} (hv : s.finSamples = .ok v) (hp : s.cons.state = codeProcessing)
    (hs : Progress v s) (h : pipeOp s = .ok t) : (t.cons.state = codeProcessing ∧ Progress v t) ∨ Published v t := by
  have still (other : s.pipe.phase ≠ .narrow) : t.cons.state = codeProcessing := by
    rwa [pipeOp_cons h other]
  cases hs with
  | widen ph hi done => exact .inl ⟨still (by simp [ph]), pipeOp_widen hv ph hi done h⟩
  | bitrev ph x hx stored => exact .inl ⟨still (by simp [ph]), pipeOp_bitrev ph hx stored h⟩
  | stages ph x wm w nb h1 h8 hi hb hwm hw stored rest =>
    exact .inl ⟨still (by simp [ph]), pipeOp_stages ph h1 h8 hi hb hwm hw stored rest h⟩
  | mask ph hi x hx len done => exact .inl ⟨still (by simp [ph]), pipeOp_mask ph hi hx len done h⟩
  | phases ph hi x hx stored done => exact .inl ⟨still (by simp [ph]), pipeOp_phases ph hi hx stored done h⟩
  | sums ph hi x table hx stored ht hc hs done =>
    exact .inl ⟨still (by simp [ph]), pipeOp_sums ph hi hx stored ht hc hs done h⟩
  | narrow ph hi x table y hx ht hy stored done => exact pipeOp_narrow hp ph hi hx ht hy stored done h

theorem finSamples_congr {s t : State} (h : t.cons.fin = s.cons.fin) : t.finSamples = s.finSamples := by
  simp only [State.finSamples, h]

theorem PipelineOnly.fin {s t : State} (h : PipelineOnly s t) : t.cons.fin = s.cons.fin := by rw [h.cons]

theorem Progress.pipeOps {v : List Sample} (n : Nat) {s t : State} (hv : s.finSamples = .ok v)
    (hp : s.cons.state = codeProcessing) (hs : Progress v s) (h : pipeOps n s = .ok t) :
    (t.cons.state = codeProcessing ∧ Progress v t) ∨ Published v t := by
  induction n generalizing s with
  | zero => cases h; exact .inl ⟨hp, hs⟩
  | succ n ih =>
    simp only [Machine.pipeOps, if_pos hp] at h
    obtain ⟨u, hu, hn⟩ := (bind_eq_ok _ _ _).1 h
    obtain ⟨hup, hus⟩ | done := hs.pipeOp hv hp hu
    · exact ih ((finSamples_congr (pipeOp_pipelineOnly hu).fin).trans hv) hup hus hn
    · rw [pipeOps_rest n u (by rw [done.state]; decide)] at hn
      cases hn
      exact .inr done

/-- What has been computed is read from the registers of the sequencer alone. -/
theorem Progress.congr {v : List Sample} {a b : State} (h : Progress v b) (same : SameRun a b) : Progress v a := by
  rcases a with ⟨cfg, _, ⟨_, _, _, fout, _, _, _, _, _, _, _⟩, pipe, _, _, _, _, _, _, _, _, _, _⟩
  obtain ⟨hcfg, -, -, hfout, hpipe⟩ := same
  dsimp only at hcfg hfout hpipe
  generalize pipe.stall = k at hpipe
  subst hcfg hfout hpipe
  cases h with
  | widen ph hi done => exact .widen ph hi done
  | bitrev ph x hx stored => exact .bitrev ph x hx stored
  | stages ph x wm w nb h1 h8 hi hb hwm hw stored rest => exact .stages ph x wm w nb h1 h8 hi hb hwm hw stored rest
  | mask ph hi x hx len done => exact .mask ph hi x hx len done
  | phases ph hi x hx stored done => exact .phases ph hi x hx stored done
  | sums ph hi x table hx stored ht hc hs done => exact .sums ph hi x table hx stored ht hc hs done
  | narrow ph hi x table y hx ht hy stored done => exact .narrow ph hi x table y hx ht hy stored done

/-- PROCESSING under way agrees with some run of the sequencer from its start. -/
theorem Running.sameRun {s : State} (h : Running s) (hp : s.cons.state = codeProcessing) :
    ∃ n a b, SameRun s b ∧ pipeOps n a = .ok b ∧ a.cfg = s.cfg ∧ a.cons.fin = s.cons.fin ∧
      a.cons.state = codeProcessing ∧ a.pipe.phase = .widen ∧ a.pipe.stageCtr = 0 ∧ a.pipe.blockCtr = 0 ∧
      a.pipe.indexCtr = 0 := by
  obtain ⟨n, a, b, cfg, fin, state, phase, stage, block, index, run, state', fout, pipe⟩ := h
  have only := pipeOps_pipelineOnly run
  exact ⟨n, a, b, ⟨(only.cfg.trans cfg).symm, hp.trans state'.symm, (only.fin.trans fin).symm, fout.symm, pipe⟩, run,
    cfg, fin, state, phase, stage, block, index⟩

theorem Running.progress {s : State} (h : Running s) (hp : s.cons.state = codeProcessing) {v : List Sample}
    (hv : s.finSamples = .ok v) : Progress v s := by
  obtain ⟨n, a, b, same, run, -, fin, state, phase, -, -, index⟩ := h.sameRun hp
  have start : Progress v a := .widen phase (by omega) (index ▸ .zero)
  obtain ⟨-, hb⟩ | done := start.pipeOps n ((finSamples_congr fin).trans hv) state run
  · exact hb.congr same
  · have := same.state.symm.trans hp
    rw [done.state] at this
    exact absurd this (by decide)

/-- More operations of the sequencer: PROCESSING is under way still, or has ended with the filtered frame (R117, R120). -/
theorem Running.pipeOps {s u : State} (h : Running s) (hp : s.cons.state = codeProcessing) {v : List Sample}
    (hv : s.finSamples = .ok v) {m : Nat} (hm : pipeOps m s = .ok u) :
    (u.cons.state = codeProcessing ∧ Running u) ∨ Published v u := by
  obtain ⟨hu, -⟩ | done := (h.progress hp hv).pipeOps m hv hp hm
  · left
    obtain ⟨n, a, b, same, run, cfg, fin, state, phase, stage, block, index⟩ := h.sameRun hp
    obtain ⟨b', hb', same'⟩ := same.pipeOps m hm
    have only := pipeOps_pipelineOnly hm
    exact ⟨hu, n + m, a, b', cfg.trans only.cfg.symm, fin.trans only.fin.symm, state, phase, stage, block, index,
      pipeOps_add n m run hb', same'.state.symm.trans hu, same'.fout.symm, same'.pipe⟩
  · exact .inr done

/-- `Running` reads the parameters, FIN, FOUT and the pipeline's registers but its stall counter. -/
theorem Running.congr {s t : State} (h : Running s) (cfg : t.cfg = s.cfg) (fin : t.cons.fin = s.cons.fin)
    (fout : t.cons.fout = s.cons.fout) (pipe : t.pipe = { s.pipe with stall := t.pipe.stall }) : Running t := by
  obtain ⟨n, a, b, hcfg, hfin, state, phase, stage, block, index, run, state', hfout, hpipe⟩ := h
  exact ⟨n, a, b, hcfg.trans cfg.symm, hfin.trans fin.symm, state, phase, stage, block, index, run, state',
    hfout.trans fout.symm, by rw [pipe, hpipe]⟩

/-- PROCESSING right after a dequeue (R116). -/
theorem Running.start {s : State} (hp : s.cons.state = codeProcessing) (phase : s.pipe.phase = .widen)
    (stage : s.pipe.stageCtr = 0) (block : s.pipe.blockCtr = 0) (index : s.pipe.indexCtr = 0) : Running s :=
  ⟨0, s, s, rfl, rfl, hp, phase, stage, block, index, rfl, hp, rfl, rfl⟩

end Sys2Proof.Machine
end

section
/-! The ring's arithmetic (R97, R101, R102) and the crossing of the pointers (R98, R99): every move of the crossing registers keeps
them codes of counts, in order, and no view goes back. -/

namespace Sys2Proof.Machine

/-! ## The ring of legal parameters -/

theorem legal_ring {p : Params} (h : p.legal = true) :
    ∃ w, 1 ≤ w ∧ p.slots = 2 ^ w ∧ p.fptrW = w ∧ p.cap = 2 ^ w * 512 ∧ 2 ≤ p.syncStages := by
  obtain ⟨-, ⟨k, hk⟩, hcap, -, -, -, -, hsync, -⟩ := (legal_iff p).1 h
  have hk10 : 10 ≤ k := by
    rw [hk, show 1024 = 2 ^ 10 by rfl] at hcap
    exact (Nat.pow_le_pow_iff_right (by decide)).1 hcap
  obtain ⟨w, rfl⟩ := Nat.exists_eq_add_of_le (show 9 ≤ k by omega)
  have hcap' : p.cap = 2 ^ w * 512 := by rw [hk, Nat.pow_add, Nat.mul_comm]
  have hslots : p.slots = 2 ^ w := by rw [Params.slots, hcap', Nat.mul_div_cancel _ (by decide)]
  exact ⟨w, by omega, hslots, by rw [Params.fptrW, hslots, Nat.log2_two_pow], hcap', hsync⟩

theorem legal_slots {p : Params} (h : p.legal = true) : 2 ≤ p.slots ∧ p.cap = p.slots * 512 := by
  obtain ⟨w, hw, hslots, -, hcap, -⟩ := legal_ring h
  rw [hslots]
  exact ⟨Nat.le_self_pow (by omega) 2, hcap⟩

/-! ## Gray codes -/

/-- A step of `gray_inv` shifts in the next bit of the pointer. -/
theorem grayInv_step (b i : Nat) :
    2 * (b >>> (i + 1)) + ((b >>> (i + 1)) % 2 + (grayOf b >>> i) % 2) % 2 = b >>> i := by
  have hx : (grayOf b >>> i) % 2 = ((b >>> i) % 2 + (b >>> (i + 1)) % 2) % 2 := by
    rw [grayOf, Nat.shiftRight_xor_distrib, ← Nat.shiftRight_add, Nat.add_comm 1 i, Nat.xor_mod_two_eq]
    omega
  rw [hx, Nat.shiftRight_succ]
  omega

theorem grayInvLoop_grayOf (b i : Nat) : grayInvLoop (grayOf b) i (b >>> i) = b := by
  induction i with
  | zero => rfl
  | succ i ih => rw [grayInvLoop, grayInv_step, ih]

/-- `gray_inv` undoes `gray` on the pointers of the width (R97). -/
theorem grayInv_grayOf {w b : Nat} (h : b < 2 ^ w) : grayInv w (grayOf b) = b := by
  have hz : b >>> w = 0 := by rw [Nat.shiftRight_eq_div_pow, Nat.div_eq_of_lt h]
  rw [grayInv, ← hz, grayInvLoop_grayOf]

/-! ## Pointer differences -/

/-- The difference of two pointers is that of their counts, as long as it fits the ring. -/
theorem ptrDiff_counts {F x y : Nat} (hxy : x ≤ y) (hF : y < x + F) : ptrDiff F (y % F) (x % F) = y - x := by
  obtain ⟨d, rfl⟩ := Nat.exists_eq_add_of_le hxy
  have hx := Nat.mod_lt x (show 0 < F by omega)
  rw [ptrDiff, Nat.mod_mod, Nat.mod_add_mod, ← Nat.mod_add_mod, ← Nat.mod_add_mod x]
  rw [Nat.mod_add_mod, show x % F + d + (F - x % F) = d + F by omega, Nat.add_mod_right, Nat.mod_eq_of_lt (by omega)]
  omega

theorem ptrNext_count {F : Nat} (n : Nat) : ptrNext F (n % F) = (n + 1) % F := by
  rw [ptrNext, Nat.mod_add_mod]

/-- Pointers of counts less than a ring apart differ. -/
theorem mod_ne_of_lt {F x y : Nat} (hxy : x < y) (hF : y < x + F) : x % F ≠ y % F := by
  intro h
  have := Nat.sub_mod_eq_zero_of_mod_eq h.symm
  rw [Nat.mod_eq_of_lt (by omega)] at this
  omega

/-! ## The registers of a crossing -/

/-- Newest first. -/
abbrev Ordered (l : List Nat) : Prop := l.Pairwise fun newer older => older ≤ newer

theorem Ordered.last_le {l : List Nat} (h : Ordered l) : ∀ x ∈ l, l.getLastD 0 ≤ x := by
  induction l with
  | nil => simp
  | cons a t ih =>
    obtain ⟨ha, ht⟩ := List.pairwise_cons.1 h
    cases t with
    | nil => simp
    | cons b r =>
      have hlast : (a :: b :: r).getLastD 0 = (b :: r).getLastD 0 := by simp
      rw [hlast]
      refine List.forall_mem_cons.2 ⟨?_, ih ht⟩
      exact (ih ht b List.mem_cons_self).trans (ha b List.mem_cons_self)

theorem getLastD_mem {l : List Nat} (h : l ≠ []) : l.getLastD 0 ∈ l := by
  cases l with
  | nil => exact absurd rfl h
  | cons a t => rw [List.getLastD_cons]; exact List.getLastD_mem_cons ..

/-- What can become of the code register `g` of a pointer `p` and of the chain `sync` that samples it: an edge of either domain or
of both (R99), or a turn of the crossing (R98). -/
inductive CrossingMove (p g : Nat) (sync : List Nat) : Nat → List Nat → Prop
  | edge (g' : Nat) (base sync' : List Nat) (source : g' = g ∨ g' = grayOf p) (chain : base = sync ∨ base = shiftIn g sync)
      (sample : sync' = base ∨ sync' = resolvedNew g' base) : CrossingMove p g sync g' sync'
  | crossed : CrossingMove p g sync (grayOf p) (sync.map fun _ => grayOf p)

theorem CrossingMove.stays (p g : Nat) (sync : List Nat) : CrossingMove p g sync g sync :=
  .edge g sync sync (.inl rfl) (.inl rfl) (.inl rfl)

/-- Whatever moves, the registers hold codes of counts up to the pointer's, in order, and the view does not go back. -/
theorem CrossingMove.counts {F n g g' : Nat} {sync sync' ns : List Nat} (m : CrossingMove (n % F) g sync g' sync')
    (hne : sync ≠ []) (codes : g :: sync = ns.map fun n => grayOf (n % F)) (order : Ordered (n :: ns)) :
    ∃ ns', (g' :: sync' = ns'.map fun n => grayOf (n % F)) ∧ Ordered (n :: ns') ∧
      ns.getLastD 0 ≤ ns'.getLastD 0 ∧ sync'.length = sync.length := by
  obtain ⟨c, cs, rfl, rfl, rfl⟩ : ∃ c cs, ns = c :: cs ∧ grayOf (c % F) = g ∧ (cs.map fun n => grayOf (n % F)) = sync := by
    cases ns with
    | nil => cases codes
    | cons c cs => simp only [List.map_cons, List.cons.injEq] at codes; exact ⟨c, cs, rfl, codes.1.symm, codes.2.symm⟩
  obtain ⟨hn, horder⟩ := List.pairwise_cons.1 order
  obtain ⟨hc, hcs⟩ := List.pairwise_cons.1 horder
  have hcn : c ≤ n := hn c List.mem_cons_self
  have low {x : Nat} (hx : x ∈ c :: cs) : (c :: cs).getLastD 0 ≤ x := Ordered.last_le horder x hx
  suffices ∃ d ds, g' = grayOf (d % F) ∧ (sync' = ds.map fun n => grayOf (n % F)) ∧ ds.length = cs.length ∧ Ordered ds ∧
      d ≤ n ∧ c ≤ d ∧ ∀ x ∈ ds, x ≤ d ∧ (c :: cs).getLastD 0 ≤ x by
    obtain ⟨d, ds, rfl, rfl, hlen, hds, hdn, hcd, hall⟩ := this
    refine ⟨d :: ds, rfl, ?_, ?_, by simp [hlen]⟩
    · refine List.pairwise_cons.2 ⟨fun x hx => ?_, List.pairwise_cons.2 ⟨fun x hx => (hall x hx).1, hds⟩⟩
      rcases List.mem_cons.1 hx with rfl | hx
      · exact hdn
      · exact (hall x hx).1.trans hdn
    · rcases List.mem_cons.1 (getLastD_mem (List.cons_ne_nil d ds)) with h | h
      · rw [h]; exact (low List.mem_cons_self).trans hcd
      · exact (hall _ h).2
  cases m with
  | crossed =>
    exact ⟨n, cs.map fun _ => n, rfl, by rw [List.map_map, List.map_map]; rfl, by simp,
      List.pairwise_map.2 (List.pairwise_of_forall fun _ _ => Nat.le_refl n),
      Nat.le_refl n, hcn, fun x hx => by
        obtain ⟨y, -, rfl⟩ := List.mem_map.1 hx
        exact ⟨Nat.le_refl n, (low List.mem_cons_self).trans hcn⟩⟩
  | edge _ base _ source chain sample =>
    obtain ⟨d, hd, hcd, hdn⟩ : ∃ d, g' = grayOf (d % F) ∧ c ≤ d ∧ d ≤ n := by
      obtain rfl | rfl := source
      · exact ⟨c, rfl, Nat.le_refl c, hcn⟩
      · exact ⟨n, rfl, hcn, Nat.le_refl n⟩
    obtain ⟨bs, hbs, blen, bord, ball⟩ : ∃ bs, (base = bs.map fun n => grayOf (n % F)) ∧ bs.length = cs.length ∧
        Ordered bs ∧ ∀ x ∈ bs, x ≤ c ∧ (c :: cs).getLastD 0 ≤ x := by
      obtain rfl | rfl := chain
      · exact ⟨cs, rfl, rfl, hcs, fun x hx => ⟨hc x hx, low (List.mem_cons_of_mem c hx)⟩⟩
      · have hcs0 : cs ≠ [] := by rintro rfl; exact hne rfl
        have hsub : (c :: cs.dropLast).Sublist (c :: cs) := (List.dropLast_sublist cs).cons_cons c
        refine ⟨c :: cs.dropLast, by rw [shiftIn_eq _ _ hne, List.map_cons, List.map_dropLast], ?_, horder.sublist hsub,
          fun x hx => ⟨?_, low (hsub.subset hx)⟩⟩
        · have := List.length_pos_iff.2 hcs0
          simp; omega
        · rcases List.mem_cons.1 hx with rfl | hx
          · exact Nat.le_refl _
          · exact hc x (List.dropLast_subset cs hx)
    obtain rfl | rfl := sample
    · exact ⟨d, bs, hd, hbs, blen, bord, hdn, hcd, fun x hx => ⟨(ball x hx).1.trans hcd, (ball x hx).2⟩⟩
    · cases bs with
      | nil => exact ⟨d, [], hd, by rw [hbs]; rfl, blen, .nil, hdn, hcd, by simp⟩
      | cons y ys =>
        obtain ⟨-, hys⟩ := List.pairwise_cons.1 bord
        have old {x : Nat} (hx : x ∈ ys) := ball x (List.mem_cons_of_mem y hx)
        refine ⟨d, d :: ys, hd, by rw [hbs, hd]; rfl, blen, ?_, hdn, hcd, ?_⟩
        · exact List.pairwise_cons.2 ⟨fun x hx => (old hx).1.trans hcd, hys⟩
        · exact List.forall_mem_cons.2 ⟨⟨Nat.le_refl d, (low List.mem_cons_self).trans hcd⟩,
            fun x hx => ⟨(old hx).1.trans hcd, (old hx).2⟩⟩

/-! ## The views are counts -/

theorem codes_ne_nil {F g : Nat} {sync ns : List Nat} (codes : g :: sync = ns.map fun n => grayOf (n % F)) : ns ≠ [] := by
  rintro rfl; cases codes

/-- The last flop holds the code of the oldest count. -/
theorem lastFlop_codes {F g : Nat} {sync ns : List Nat} (codes : g :: sync = ns.map fun n => grayOf (n % F))
    (hne : sync ≠ []) : lastFlop sync = grayOf (ns.getLastD 0 % F) := by
  have hlast : (g :: sync).getLast? = sync.getLast? := by
    obtain ⟨a, t, rfl⟩ := List.exists_cons_of_ne_nil hne
    rw [List.getLast?_cons_cons]
  rw [codes, List.getLast?_map] at hlast
  obtain ⟨a, t, rfl⟩ := List.exists_cons_of_ne_nil (codes_ne_nil codes)
  rw [lastFlop, List.getLastD_eq_getLast?, ← hlast, List.getLastD_eq_getLast?, List.getLast?_cons]
  rfl

/-- A view is not ahead of its pointer. -/
theorem last_le_of_ordered {n : Nat} {ns : List Nat} (hne : ns ≠ []) (h : Ordered (n :: ns)) : ns.getLastD 0 ≤ n :=
  (List.pairwise_cons.1 h).1 _ (getLastD_mem hne)

namespace RingCounts

variable {s : State} {H T : Nat} {hs ts : List Nat}

theorem chains_ne_nil (h : RingCounts s H T hs ts) (hl : s.cfg.legal = true) :
    s.cons.hfSync ≠ [] ∧ s.prod.tfSync ≠ [] := by
  obtain ⟨-, -, -, -, -, hsync⟩ := legal_ring hl
  rw [← List.length_pos_iff, ← List.length_pos_iff, h.headFlops, h.tailFlops]
  omega

/-- R103: TV ≤ T ≤ HV ≤ H < TV + F. -/
theorem bounds (h : RingCounts s H T hs ts) :
    ts.getLastD 0 ≤ T ∧ T ≤ hs.getLastD 0 ∧ hs.getLastD 0 ≤ H ∧ H < ts.getLastD 0 + s.slots :=
  ⟨last_le_of_ordered (codes_ne_nil h.tailCodes) h.tailOrder, h.known,
    last_le_of_ordered (codes_ne_nil h.headCodes) h.headOrder, h.room⟩

theorem tv (h : RingCounts s H T hs ts) (hl : s.cfg.legal = true) : s.tv = ts.getLastD 0 % s.slots := by
  obtain ⟨w, -, hslots, hw, -, -⟩ := legal_ring hl
  rw [State.tv, lastFlop_codes h.tailCodes (h.chains_ne_nil hl).2, hw, State.slots, hslots]
  exact grayInv_grayOf (Nat.mod_lt _ (Nat.two_pow_pos w))

theorem hv (h : RingCounts s H T hs ts) (hl : s.cfg.legal = true) : s.hv = hs.getLastD 0 % s.slots := by
  obtain ⟨w, -, hslots, hw, -, -⟩ := legal_ring hl
  rw [State.hv, lastFlop_codes h.headCodes (h.chains_ne_nil hl).1, hw, State.slots, hslots]
  exact grayInv_grayOf (Nat.mod_lt _ (Nat.two_pow_pos w))

/-- R102: there is room exactly for one more frame below F − 1. -/
theorem canCommit_iff (h : RingCounts s H T hs ts) (hl : s.cfg.legal = true) :
    s.canCommit = true ↔ H + 2 ≤ ts.getLastD 0 + s.slots := by
  obtain ⟨h1, h2, h3, h4⟩ := h.bounds
  rw [State.canCommit_eq, decide_eq_true_iff, h.head, h.tv hl, ptrDiff_counts (by omega) h4]
  omega

/-- R101: a frame is known to be ready exactly when the view of the head count is ahead of the tail count. -/
theorem framesReady_iff (h : RingCounts s H T hs ts) (hl : s.cfg.legal = true) :
    s.framesReady ≠ 0 ↔ T + 1 ≤ hs.getLastD 0 := by
  obtain ⟨h1, h2, h3, h4⟩ := h.bounds
  rw [State.framesReady, h.hv hl, h.tail, ptrDiff_counts (by omega) (by omega)]
  omega

end RingCounts

/-! ## The moves keep the ring invariant -/

/-- The count behind a pointer after a move: one more where the pointer moved. -/
def countAfter (n p p' : Nat) : Nat := if p' = p then n else n + 1

@[simp] theorem countAfter_same (n p : Nat) : countAfter n p p = n := if_pos rfl

theorem le_countAfter (n p p' : Nat) : n ≤ countAfter n p p' := by unfold countAfter; split <;> omega

/-- A published pointer moves, in a ring of at least two slots. -/
theorem countAfter_ptrNext {F n p : Nat} (hF : 2 ≤ F) (hp : p = n % F) : countAfter n p (ptrNext F p) = n + 1 := by
  rw [hp, ptrNext_count, countAfter, if_neg]
  exact (mod_ne_of_lt (Nat.lt_succ_self n) (by omega)).symm

/-- What a move of PROD leaves of the ring's bounds, for the view `TV` that PROD holds. -/
structure HeadStep (s a : State) (H TV : Nat) : Prop where
  head : a.prod.hf = countAfter H s.prod.hf a.prod.hf % s.slots
  room : countAfter H s.prod.hf a.prod.hf + 1 ≤ TV + s.slots
  copying : a.prod.state = codeCommit → a.prod.cphase = .copy → countAfter H s.prod.hf a.prod.hf + 2 ≤ TV + s.slots

theorem HeadStep.of_same {s a : State} {H T : Nat} {hs ts : List Nat} (h : RingCounts s H T hs ts)
    (same : a.prod.hf = s.prod.hf)
    (copying : a.prod.state = codeCommit → a.prod.cphase = .copy → H + 2 ≤ ts.getLastD 0 + s.slots) :
    HeadStep s a H (ts.getLastD 0) := by
  constructor <;> rw [same, countAfter_same]
  · exact h.head
  · exact h.room
  · exact copying

theorem HeadStep.of_published {s a : State} {H T : Nat} {hs ts : List Nat} (h : RingCounts s H T hs ts)
    (hl : s.cfg.legal = true) (next : a.prod.hf = ptrNext s.slots s.prod.hf) (idle : a.prod.state = codeIdle)
    (room : H + 2 ≤ ts.getLastD 0 + s.slots) : HeadStep s a H (ts.getLastD 0) := by
  constructor <;> rw [next, countAfter_ptrNext (F := s.slots) (legal_slots hl).1 h.head]
  · rw [h.head, ptrNext_count]
  · exact room
  · rw [idle]; exact fun e => absurd e (by decide)

theorem ProducerMove.headStep {s a : State} {H T : Nat} {hs ts : List Nat} (hl : s.cfg.legal = true)
    (h : RingCounts s H T hs ts) (m : ProducerMove s a) : HeadStep s a H (ts.getLastD 0) := by
  cases m with
  | stays => exact .of_same h rfl h.copying
  | accepts d =>
    refine .of_same h rfl fun hc hp => ?_
    rw [State.accepted_prod_state] at hc
    rw [State.accepted_prod_cphase] at hp
    split at hc
    · simp_all
    · exact absurd hc (by decide)
  | commits frame _ room => exact .of_published h hl rfl rfl ((h.canCommit_iff hl).1 room)
  | waitsForRoom => exact .of_same h (by simp) (by simpa using h.copying)
  | checks =>
    unfold State.checkEdge
    split
    next room => exact .of_same h rfl fun _ _ => (h.canCommit_iff hl).1 room
    next => split <;> exact .of_same h (by simp) (by simp)
  | pauses hs hp =>
    unfold State.waitEdge
    split
    · exact .of_same h rfl (by simp)
    · exact .of_same h rfl (by simp [hp])
  | copies b hs hp => exact .of_same h rfl fun _ _ => h.copying hs hp
  | publishes b hs hp => exact .of_published h hl rfl rfl (h.copying hs hp)

/-- What a move of CONS leaves of the ring's bounds, for the view `HV` that CONS holds. -/
structure TailStep (s b : State) (T HV : Nat) : Prop where
  tail : b.cons.tf = countAfter T s.cons.tf b.cons.tf % s.slots
  known : countAfter T s.cons.tf b.cons.tf ≤ HV
  reading : b.cons.dqActive = true → countAfter T s.cons.tf b.cons.tf + 1 ≤ HV

theorem TailStep.of_same {s b : State} {H T : Nat} {hs ts : List Nat} (h : RingCounts s H T hs ts)
    (same : b.cons.tf = s.cons.tf) (reading : b.cons.dqActive = true → T + 1 ≤ hs.getLastD 0) :
    TailStep s b T (hs.getLastD 0) := by
  constructor <;> rw [same, countAfter_same]
  · exact h.tail
  · exact h.known
  · exact reading

theorem TailStep.of_published {s b : State} {H T : Nat} {hs ts : List Nat} (h : RingCounts s H T hs ts)
    (hl : s.cfg.legal = true) (next : b.cons.tf = ptrNext s.slots s.cons.tf) (ended : b.cons.dqActive = false)
    (ready : T + 1 ≤ hs.getLastD 0) : TailStep s b T (hs.getLastD 0) := by
  constructor <;> rw [next, countAfter_ptrNext (F := s.slots) (legal_slots hl).1 h.tail]
  · rw [h.tail, ptrNext_count]
  · exact ready
  · simp [ended]

theorem ConsumerMove.tailStep {s b : State} {H T : Nat} {hs ts : List Nat} (hl : s.cfg.legal = true)
    (h : RingCounts s H T hs ts) (m : ConsumerMove s b) : TailStep s b T (hs.getLastD 0) := by
  cases m with
  | dequeues frame _ ready => exact .of_published h hl rfl rfl ((h.framesReady_iff hl).1 ready)
  | readsLast x _ active => exact .of_published h hl rfl rfl (h.reading active)
  | starts _ ready => exact .of_same h rfl fun _ => (h.framesReady_iff hl).1 ready
  | emits => exact .of_same h (by simp) (by simpa using h.reading)
  | runs n u _ hu =>
    have only := pipeOps_pipelineOnly hu
    refine .of_same h ?_ ?_ <;> rw [State.stalled_cons, only.cons]
    · rfl
    · exact h.reading
  | _ => exact .of_same h rfl h.reading

/-- The ring invariant after moves of both agents and of the crossing, each from the state before. -/
theorem RingCounts.moves {s a b t : State} {H T : Nat} {hs ts : List Nat} (h : RingCounts s H T hs ts)
    (hl : s.cfg.legal = true) (ha : HeadStep s a H (ts.getLastD 0)) (hb : TailStep s b T (hs.getLastD 0))
    (cfg : t.cfg = s.cfg) (hf : t.prod.hf = a.prod.hf) (state : t.prod.state = a.prod.state)
    (cphase : t.prod.cphase = a.prod.cphase) (tf : t.cons.tf = b.cons.tf) (active : t.cons.dqActive = b.cons.dqActive)
    (headMove : CrossingMove s.prod.hf s.prod.hfGray s.cons.hfSync t.prod.hfGray t.cons.hfSync)
    (tailMove : CrossingMove s.cons.tf s.cons.tfGray s.prod.tfSync t.cons.tfGray t.prod.tfSync) :
    ∃ hs' ts', RingCounts t (countAfter H s.prod.hf a.prod.hf) (countAfter T s.cons.tf b.cons.tf) hs' ts' := by
  have slots : t.slots = s.slots := congrArg Params.slots cfg
  obtain ⟨hne, tne⟩ := h.chains_ne_nil hl
  obtain ⟨hs', hcodes, horder, hview, hlen⟩ := (h.head ▸ headMove).counts hne h.headCodes h.headOrder
  obtain ⟨ts', tcodes, torder, tview, tlen⟩ := (h.tail ▸ tailMove).counts tne h.tailCodes h.tailOrder
  have grows {n n' : Nat} {ns : List Nat} (hn : n ≤ n') (ho : Ordered (n :: ns)) : Ordered (n' :: ns) := by
    obtain ⟨hall, hns⟩ := List.pairwise_cons.1 ho
    exact List.pairwise_cons.2 ⟨fun x hx => (hall x hx).trans hn, hns⟩
  refine ⟨hs', ts', ?_, ?_, ?_, ?_, ?_, ?_, grows (le_countAfter ..) horder, grows (le_countAfter ..) torder, ?_, ?_, ?_, ?_⟩
  · rw [hf, slots]; exact ha.head
  · rw [tf, slots]; exact hb.tail
  · rw [slots]; exact hcodes
  · rw [slots]; exact tcodes
  · rw [hlen, cfg]; exact h.headFlops
  · rw [tlen, cfg]; exact h.tailFlops
  · exact hb.known.trans hview
  · have := ha.room; rw [slots]; omega
  · intro hc hp
    have := ha.copying (state ▸ hc) (cphase ▸ hp)
    rw [slots]; omega
  · intro hd; exact (hb.reading (active ▸ hd)).trans hview

end Sys2Proof.Machine
end

section
/-! The stream invariant (R96, R103, R104) is the conjunction of what PROD holds, what CONS holds and the crossing between
them; every move of an agent keeps its part. -/

namespace Sys2Proof.Machine

/-! ## The two parts of the invariant -/

/-- PROD's part of `StreamCounts`: the control registers of R18 and R19, STAGE, and the ring from slot `T` to slot `H`. -/
structure ProducerHolds (s : State) (H T : Nat) : Prop where
  code : s.prod.state ≠ codeUnused
  idleCount : s.prod.state = codeIdle → s.prod.stageCnt = 0#10
  accumCount : s.prod.state = codeAccum → 0 < s.prod.stageCnt.toNat ∧ s.prod.stageCnt.toNat < 512
  commitCount : s.prod.state = codeCommit → s.prod.stageCnt = 512#10
  accepted : s.inLog.length = 512 * H + s.prod.stageCnt.toNat
  staged : ∀ i, i < s.prod.stageCnt.toNat → readCell s.prod.stage i = s.inLog[512 * H + i]?
  copied : s.prod.state = codeCommit → s.prod.cphase = .copy →
    ∀ i, i < s.prod.copyIdx.toNat → readCell s.ram (ramAddr s.cfg (H % s.slots) i) = s.inLog[512 * H + i]?
  ring : ∀ c, T ≤ c → c < H → ∀ i, i < 512 → readCell s.ram (ramAddr s.cfg (c % s.slots) i) = s.inLog[512 * c + i]?

/-- CONS's part of `StreamCounts`: the control registers of R18 and R20, FIN, the sequencer, FOUT and the output. -/
structure ConsumerHolds (s : State) (T : Nat) (outs : List (List Byte)) : Prop where
  code : s.cons.state ≠ codeUnused
  emitRange : s.cons.emitIdx.toNat ≤ 513
  emitRest : s.cons.state ≠ codeEmitting → s.cons.emitIdx = 0#10
  offered : s.cons.outValid = true ↔ s.cons.state = codeEmitting
  filtered : ∀ j out, outs[j]? = some out → isOutput s.cfg (frameAt s.inLog j) out
  dequeuing : s.cons.dqActive = true → s.cons.state = codeWaiting ∧
    ∀ i, i < s.cons.rdIdx.toNat → readCell s.cons.fin i = s.inLog[512 * T + i]?
  waiting : s.cons.state = codeWaiting → outs.length = T ∧ s.emitted = outs.flatten
  processing : s.cons.state = codeProcessing →
    outs.length + 1 = T ∧ s.emitted = outs.flatten ∧
      (∀ i, i < 512 → readCell s.cons.fin i = s.inLog[512 * (T - 1) + i]?) ∧ Running s
  emitting : s.cons.state = codeEmitting →
    ∃ past last, outs = past ++ [last] ∧ outs.length = T ∧
      s.emitted = past.flatten ++ last.take s.cons.emitIdx.toNat ∧
      (∀ e, e ≤ 513 → s.outByte e = elemOf last e) ∧ s.outByte s.cons.emitIdx.toNat = .ok s.cons.outData

theorem streamCounts_iff (s : State) (H T : Nat) (hs ts : List Nat) (outs : List (List Byte)) :
    StreamCounts s H T hs ts outs ↔ ProducerHolds s H T ∧ ConsumerHolds s T outs ∧ RingCounts s H T hs ts := by
  constructor
  · rintro ⟨⟨c1, c2, c3, c4, c5, c6, c7, c8⟩, crossing, accepted, staged, copied, ring, filtered, dequeuing, waiting,
      processing, emitting⟩
    exact ⟨⟨c1, c3, c4, c5, accepted, staged, copied, ring⟩,
      ⟨c2, c6, c7, c8, filtered, dequeuing, waiting, processing, emitting⟩, crossing⟩
  · rintro ⟨⟨c1, c3, c4, c5, accepted, staged, copied, ring⟩,
      ⟨c2, c6, c7, c8, filtered, dequeuing, waiting, processing, emitting⟩, crossing⟩
    exact ⟨⟨c1, c2, c3, c4, c5, c6, c7, c8⟩, crossing, accepted, staged, copied, ring, filtered, dequeuing, waiting,
      processing, emitting⟩

/-! ## PROD keeps its part -/

/-- Two slots of the ring share no address. -/
theorem ramAddr_ne_of_slot {p : Params} (hl : p.legal = true) {a b i j : Nat} (ha : a < p.slots) (hb : b < p.slots)
    (hab : a ≠ b) (hi : i < 512) (hj : j < 512) : ramAddr p a i ≠ ramAddr p b j := by
  obtain ⟨-, hcap⟩ := legal_slots hl
  rw [ramAddr, ramAddr, hcap, Nat.mod_eq_of_lt (by omega), Nat.mod_eq_of_lt (by omega)]
  omega

namespace ProducerHolds

variable {s a t : State} {H T : Nat}

theorem staged_length_le (h : ProducerHolds s H T) : 512 * H ≤ s.inLog.length := by have := h.accepted; omega

/-- What PROD holds does not depend on the other registers, and a dequeue only frees a slot. -/
theorem congr {T' : Nat} (h : ProducerHolds s H T) (hT : T ≤ T') (cfg : t.cfg = s.cfg) (state : t.prod.state = s.prod.state)
    (count : t.prod.stageCnt = s.prod.stageCnt) (stage : t.prod.stage = s.prod.stage) (ram : t.ram = s.ram)
    (log : t.inLog = s.inLog)
    (copy : t.prod.cphase = .copy → t.prod.copyIdx = 0#9 ∨ s.prod.cphase = .copy ∧ t.prod.copyIdx = s.prod.copyIdx) :
    ProducerHolds t H T' := by
  have slots : t.slots = s.slots := congrArg Params.slots cfg
  refine ⟨?_, ?_, ?_, ?_, ?_, ?_, fun hc hp i hi => ?_, fun c hc => ?_⟩
  · rw [state]; exact h.code
  · rw [state, count]; exact h.idleCount
  · rw [state, count]; exact h.accumCount
  · rw [state, count]; exact h.commitCount
  · rw [log, count]; exact h.accepted
  · rw [log, count, stage]; exact h.staged
  · rw [ram, cfg, slots, log]
    obtain zero | ⟨hp', same⟩ := copy hp
    · rw [zero] at hi; exact absurd hi (Nat.not_lt_zero i)
    · exact h.copied (state ▸ hc) hp' i (same ▸ hi)
  · rw [ram, cfg, slots, log]; exact h.ring c (hT.trans hc)

/-- The whole frame is staged in COMMIT (R108). -/
theorem staged_frame (h : ProducerHolds s H T) (hs : s.prod.state = codeCommit) :
    s.inLog.length = 512 * (H + 1) ∧ ∀ i, i < 512 → readCell s.prod.stage i = s.inLog[512 * H + i]? := by
  have count : s.prod.stageCnt.toNat = 512 := by rw [h.commitCount hs]; rfl
  have hlen := h.accepted
  exact ⟨by omega, fun i hi => h.staged i (by omega)⟩

theorem accept (h : ProducerHolds s H T) (free : s.prod.stageCnt.toNat < 512) (d : Byte) :
    ProducerHolds (s.accepted d) H T := by
  have count : (s.prod.stageCnt + 1#10).toNat = s.prod.stageCnt.toNat + 1 := by
    rw [BitVec.toNat_add, BitVec.toNat_ofNat]; omega
  have full : s.prod.stageCnt + 1#10 = 512#10 ↔ s.prod.stageCnt.toNat + 1 = 512 := by
    rw [← BitVec.toNat_inj, count]; rfl
  have hlen := h.accepted
  have old {k : Nat} (hk : k < 512 * H + s.prod.stageCnt.toNat) : (s.inLog ++ [d])[k]? = s.inLog[k]? :=
    List.getElem?_append_left (by omega)
  refine ⟨?_, ?_, ?_, ?_, ?_, fun i hi => ?_, ?_, fun c hc hcH i hi => ?_⟩
  · rw [State.accepted_prod_state]; split <;> decide
  · rw [State.accepted_prod_state]; split <;> exact fun e => absurd e (by decide)
  · rw [State.accepted_prod_state, State.accepted_prod_stageCnt, count]
    split
    · exact fun e => absurd e (by decide)
    next e => have := mt full.2 e; exact fun _ => ⟨by omega, by omega⟩
  · rw [State.accepted_prod_state]
    split
    next e => exact fun _ => e
    · exact fun e => absurd e (by decide)
  · rw [State.accepted_prod_stageCnt, count, State.accepted_inLog, List.length_append, hlen]; rfl
  · rw [State.accepted_prod_stageCnt, count] at hi
    rw [State.accepted_prod_stage, State.accepted_inLog, readCell_writeCell]
    split
    next e => subst e; rw [← hlen]; simp
    next e => rw [old (by omega)]; exact h.staged i (by omega)
  · rw [State.accepted_prod_state, State.accepted_prod_cphase]
    split
    · exact fun _ hp => nomatch hp
    · exact fun e => absurd e (by decide)
  · rw [State.accepted_inLog, old (by omega)]; exact h.ring c hc hcH i hi

/-- After a publication slot `H` holds the frame that was staged (R109, R113). -/
theorem publish (h : ProducerHolds s H T) (hs : s.prod.state = codeCommit) (state : a.prod.state = codeIdle)
    (count : a.prod.stageCnt = 0#10) (cfg : a.cfg = s.cfg) (log : a.inLog = s.inLog)
    (new : ∀ i, i < 512 → readCell a.ram (ramAddr s.cfg (H % s.slots) i) = s.inLog[512 * H + i]?)
    (kept : ∀ c, T ≤ c → c < H → ∀ i, i < 512 →
      readCell a.ram (ramAddr s.cfg (c % s.slots) i) = readCell s.ram (ramAddr s.cfg (c % s.slots) i)) :
    ProducerHolds a (H + 1) T := by
  have slots : a.slots = s.slots := congrArg Params.slots cfg
  obtain ⟨hlen, -⟩ := h.staged_frame hs
  refine ⟨by rw [state]; decide, fun _ => count, ?_, ?_, by rw [log, count, hlen]; rfl, ?_, ?_, fun c hc hcH i hi => ?_⟩
  · rw [state]; exact fun e => absurd e (by decide)
  · rw [state]; exact fun e => absurd e (by decide)
  · rw [count]; exact fun i hi => absurd hi (Nat.not_lt_zero i)
  · rw [state]; exact fun e => absurd e (by decide)
  · rw [cfg, slots, log]
    rcases Nat.lt_succ_iff_lt_or_eq.1 hcH with lt | rfl
    · rw [kept c hc lt i hi]; exact h.ring c hc lt i hi
    · exact new i hi

end ProducerHolds

/-- Slot `H` lies apart from every slot from `T` on that holds a frame (R103). -/
theorem RingCounts.slot_apart {s : State} {H T : Nat} {hs ts : List Nat} (h : RingCounts s H T hs ts)
    (hl : s.cfg.legal = true) {c i j : Nat} (hc : T ≤ c) (hcH : c < H) (hi : i < 512) (hj : j < 512) :
    ramAddr s.cfg (H % s.slots) i ≠ ramAddr s.cfg (c % s.slots) j := by
  obtain ⟨h1, h2, h3, h4⟩ := h.bounds
  have pos : 0 < s.slots := by have := (legal_slots hl).1; exact Nat.lt_of_lt_of_le (by decide) this
  exact ramAddr_ne_of_slot hl (Nat.mod_lt _ pos) (Nat.mod_lt _ pos) (mod_ne_of_lt hcH (by omega)).symm hi hj

theorem legal_cap {p : Params} (hl : p.legal = true) : 512 ≤ p.cap := by
  obtain ⟨two, cap⟩ := legal_slots hl
  omega

/-- Before its last byte the index of a copy counts up. -/
theorem copyIndex_succ {i : BitVec 9} (more : i ≠ 511#9) : (i + 1#9).toNat = i.toNat + 1 := by bv_omega

theorem ProducerMove.holds {s a : State} {H T : Nat} {hs ts : List Nat} (hl : s.cfg.legal = true)
    (hr : RingCounts s H T hs ts) (h : ProducerHolds s H T) (m : ProducerMove s a) :
    ProducerHolds a (countAfter H s.prod.hf a.prod.hf) T := by
  have published (p : State) (hp : p.prod.hf = ptrNext s.slots s.prod.hf) : countAfter H s.prod.hf p.prod.hf = H + 1 := by
    rw [hp]; exact countAfter_ptrNext (legal_slots hl).1 hr.head
  have apart {c i j : Nat} (hc : T ≤ c) (hcH : c < H) (hi : i < 512) (hj : j < 512) := hr.slot_apart hl hc hcH hi hj
  have inSlot {i j : Nat} := ramAddr_injective s.cfg (H % s.slots) i j (legal_cap hl)
  have written {i : Nat} {b : Byte} :
      readCell (ramWrite s.ram (ramAddr s.cfg s.prod.hf i) b) (ramAddr s.cfg (H % s.slots) i) = some b := by
    rw [hr.head]; exact readCell_writeCell_same ..
  have written_other {i k : Nat} {b : Byte} (hk : ramAddr s.cfg (H % s.slots) i ≠ k) :
      readCell (ramWrite s.ram (ramAddr s.cfg s.prod.hf i) b) k = readCell s.ram k := by
    rw [hr.head]; exact readCell_writeCell_other _ _ hk
  cases m with
  | stays => rw [countAfter_same]; exact h
  | accepts d _ free => rw [State.accepted_prod_hf, countAfter_same]; exact h.accept free d
  | commits frame hs _ staged =>
    obtain ⟨hlen, hframe⟩ := (readRun_eq_ok _ _ _ _).1 staged
    obtain ⟨-, hstage⟩ := h.staged_frame hs
    rw [published _ rfl]
    refine h.publish hs rfl rfl rfl rfl (fun i hi => ?_) fun c hc hcH i hi => ?_
    · rw [State.committed_ram, hr.head]
      have same := readCell_slotWriteFrom_same s.cfg frame s.ram (H % s.slots) 0 i (by omega) fun a b ha hb e =>
        inSlot (by omega) (by omega) (by simpa using e)
      rw [Nat.zero_add] at same
      rw [same, ← hframe i hi, Nat.zero_add, hstage i hi]
    · rw [State.committed_ram, hr.head]
      exact readCell_slotWriteFrom_other _ _ _ _ _ _ fun k hk => apart hc hcH (by omega) hi
  | waitsForRoom =>
    rw [State.backpressured_prod_hf, countAfter_same]
    exact h.congr (Nat.le_refl T) (by simp) (by simp) (by simp) (by simp) (by simp) (by simp) fun hp =>
      .inr ⟨by simpa using hp, by simp⟩
  | checks hs hp =>
    have hf : s.checkEdge.prod.hf = s.prod.hf := by simp only [State.checkEdge]; (repeat' split) <;> simp
    rw [hf, countAfter_same]
    unfold State.checkEdge
    split
    · exact h.congr (Nat.le_refl T) rfl rfl rfl rfl rfl rfl fun _ => .inl rfl
    · split <;> exact h.congr (Nat.le_refl T) (by simp) (by simp) (by simp) (by simp) (by simp) (by simp) fun e => nomatch e
  | pauses hs hp =>
    have hf : s.waitEdge.prod.hf = s.prod.hf := by unfold State.waitEdge; split <;> rfl
    rw [hf, countAfter_same]
    unfold State.waitEdge
    split
    · exact h.congr (Nat.le_refl T) rfl rfl rfl rfl rfl rfl fun e => nomatch e
    · exact h.congr (Nat.le_refl T) rfl rfl rfl rfl rfl rfl fun e => .inr ⟨e, rfl⟩
  | copies b hs hp hb more =>
    obtain ⟨-, hstage⟩ := h.staged_frame hs
    have idx := s.prod.copyIdx.isLt
    have next := copyIndex_succ more
    rw [countAfter_same]
    refine ⟨h.code, h.idleCount, h.accumCount, h.commitCount, h.accepted, h.staged, fun _ _ i hi => ?_,
      fun c hc hcH i hi => ?_⟩
    · have hi : i < s.prod.copyIdx.toNat + 1 := next ▸ hi
      rcases Nat.lt_succ_iff_lt_or_eq.1 hi with lt | rfl
      · exact (written_other (fun e => by have := inSlot idx (by omega) e; omega)).trans (h.copied hs hp i lt)
      · exact written.trans (hb.symm.trans (hstage _ idx))
    · exact (written_other (apart hc hcH idx hi)).trans (h.ring c hc hcH i hi)
  | publishes b hs hp hb last =>
    obtain ⟨-, hstage⟩ := h.staged_frame hs
    have idx : s.prod.copyIdx.toNat = 511 := by rw [last]; rfl
    rw [published _ rfl]
    refine h.publish hs rfl rfl rfl rfl (fun i hi => ?_) fun c hc hcH i hi => ?_
    · rcases Nat.lt_succ_iff_lt_or_eq.1 hi with lt | rfl
      · exact (written_other (fun e => by have := inSlot (by omega) (by omega) e; omega)).trans (h.copied hs hp i (by omega))
      · rw [idx] at hb
        rw [State.commitPublished_ram, idx]
        exact written.trans (hb.symm.trans (hstage _ (by decide)))
    · exact written_other (apart hc hcH (by omega) hi)

/-! ## Frames of the accepted stream and output frames -/

theorem frameAt_getElem? (log : List Byte) (j i : Nat) (hi : i < 512) : (frameAt log j)[i]? = log[512 * j + i]? := by
  rw [frameAt, List.getElem?_take_of_lt hi, List.getElem?_drop]

/-- A frame that was accepted whole stays what it is while the stream grows. -/
theorem frameAt_prefix {l r : List Byte} (h : l <+: r) {j : Nat} (hj : 512 * (j + 1) ≤ l.length) :
    frameAt r j = frameAt l j := by
  obtain ⟨e, rfl⟩ := h
  rw [frameAt, frameAt, List.drop_append_of_le_length (by omega), List.take_append_of_le_length]
  rw [List.length_drop]; omega

/-- The elements of the accepted stream stay what they are while it grows. -/
theorem getElem?_prefix {l r : List Byte} (h : l <+: r) {i : Nat} (hi : i < l.length) : r[i]? = l[i]? := by
  obtain ⟨e, rfl⟩ := h
  exact List.getElem?_append_left hi

/-- The bytes of FIN are those of an accepted frame, read whole. -/
theorem readRun_frame {fin : Store Byte} {log : List Byte} {j : Nat} (hlen : 512 * (j + 1) ≤ log.length)
    (h : ∀ i, i < 512 → readCell fin i = log[512 * j + i]?) : readRun fin 0 512 = .ok (frameAt log j) := by
  refine (readRun_eq_ok _ _ _ _).2 ⟨?_, fun i hi => ?_⟩
  · rw [frameAt, List.length_take, List.length_drop]; omega
  · rw [Nat.zero_add, h i hi, frameAt_getElem? log j i hi]

theorem finSamples_frame {s : State} {j : Nat} (hlen : 512 * (j + 1) ≤ s.inLog.length)
    (h : ∀ i, i < 512 → readCell s.cons.fin i = s.inLog[512 * j + i]?) :
    s.finSamples = .ok (unpackBytes (frameAt s.inLog j)) := by
  rw [State.finSamples, readRun_frame hlen h]; rfl

/-- The output frame of the Samples `out` (R96). -/
def outputFrame (out : List Sample) : List Byte := sofByte :: packSamples out ++ [eofByte]

theorem outputFrame_length {out : List Sample} (h : out.length = 256) : (outputFrame out).length = 514 := by
  simp [outputFrame, packSamples_length, h]

theorem isOutput_length {p : Params} {frame out : List Byte} (h : isOutput p frame out) : out.length = 514 := by
  obtain ⟨r, hr, rfl⟩ := h
  exact outputFrame_length (filterFrame_out_length hr)

/-- With the filtered Samples in FOUT, `byte(e)` is byte e of the output frame (R118). -/
theorem outByte_outputFrame {s : State} {out : List Sample} (h : Stored s.cons.fout out) {e : Nat} (he : e ≤ 513) :
    s.outByte e = elemOf (outputFrame out) e := by
  have len := packSamples_length out
  rw [h.1] at len
  rcases Nat.eq_zero_or_pos e with rfl | pos
  · rfl
  obtain ⟨k, rfl⟩ : ∃ k, e = k + 1 := ⟨e - 1, by omega⟩
  rcases Nat.lt_or_ge k 512 with lt | ge
  · have hk : k / 2 < 256 := by omega
    obtain ⟨v, cell⟩ : ∃ v, out[k / 2]? = some v := ⟨_, List.getElem?_eq_getElem (by rw [h.1]; exact hk)⟩
    have hread : readElem s.cons.fout (k / 2) = .ok v := readElem_of_readCell ((h.2 _ hk).trans cell)
    have hbyte : (outputFrame out)[k + 1]? = some (if k % 2 = 0 then lowByte v else highByte v) := by
      rw [outputFrame, List.cons_append, List.getElem?_cons_succ, List.getElem?_append_left (by omega),
        packSamples_getElem?, cell]; rfl
    rw [(elemOf_eq_ok _ _ _).2 hbyte, State.outByte, if_neg (by omega), if_neg (by omega), if_neg (by omega),
      Nat.add_sub_cancel, hread, ok_bind]
    congr 2
    rw [eq_iff_iff]
    omega
  · obtain rfl : k = 512 := by omega
    have hbyte : (outputFrame out)[512 + 1]? = some eofByte := by
      rw [outputFrame, List.cons_append, List.getElem?_cons_succ, List.getElem?_append_right (by omega), len]; rfl
    rw [(elemOf_eq_ok _ _ _).2 hbyte]; rfl

/-! ## CONS keeps its part -/

theorem consState_cases {c : BitVec 2} (h : c ≠ codeUnused) : c = codeWaiting ∨ c = codeProcessing ∨ c = codeEmitting := by
  revert c; decide

namespace ConsumerHolds

variable {s t b : State} {T : Nat} {outs : List (List Byte)}

theorem outs_le (h : ConsumerHolds s T outs) : outs.length ≤ T := by
  obtain e | e | e := consState_cases h.code
  · exact (h.waiting e).1.le
  · have := (h.processing e).1; omega
  · obtain ⟨-, -, -, len, -⟩ := h.emitting e; exact len.le

/-- What CONS holds does not depend on the other registers, and the stream may grow. -/
theorem congr (h : ConsumerHolds s T outs) (cfg : t.cfg = s.cfg)
    (cons : t.cons = { s.cons with tfGray := t.cons.tfGray, hfSync := t.cons.hfSync })
    (pipe : t.pipe = { s.pipe with stall := t.pipe.stall }) (emitted : t.emitted = s.emitted) (log : s.inLog <+: t.inLog)
    (hT : 512 * T ≤ s.inLog.length) (reading : s.cons.dqActive = true → 512 * (T + 1) ≤ s.inLog.length) :
    ConsumerHolds t T outs := by
  have state : t.cons.state = s.cons.state := by rw [cons]
  have fin : t.cons.fin = s.cons.fin := by rw [cons]
  have fout : t.cons.fout = s.cons.fout := by rw [cons]
  have emitIdx : t.cons.emitIdx = s.cons.emitIdx := by rw [cons]
  have active : t.cons.dqActive = s.cons.dqActive := by rw [cons]
  have rdIdx : t.cons.rdIdx = s.cons.rdIdx := by rw [cons]
  have outValid : t.cons.outValid = s.cons.outValid := by rw [cons]
  have outData : t.cons.outData = s.cons.outData := by rw [cons]
  have outByte (e : Nat) : t.outByte e = s.outByte e := by simp only [State.outByte, fout]
  refine ⟨state ▸ h.code, emitIdx ▸ h.emitRange, ?_, ?_, fun j out hj => ?_, fun hq => ?_, ?_, fun hp => ?_, ?_⟩
  · rw [state, emitIdx]; exact h.emitRest
  · rw [state, outValid]; exact h.offered
  · have hj' : j < outs.length := (List.getElem?_eq_some_iff.1 hj).1
    have := h.outs_le
    rw [cfg, frameAt_prefix log (by omega)]
    exact h.filtered j out hj
  · rw [active] at hq
    obtain ⟨hw, hall⟩ := h.dequeuing hq
    have hlen := reading hq
    refine ⟨state.trans hw, fun i hi => ?_⟩
    rw [rdIdx] at hi
    have := s.cons.rdIdx.isLt
    rw [fin, getElem?_prefix log (by omega)]
    exact hall i hi
  · rw [state, emitted]; exact h.waiting
  · obtain ⟨hT', hem, hfin, run⟩ := h.processing (state ▸ hp)
    refine ⟨hT', emitted.trans hem, fun i hi => ?_, run.congr cfg fin fout pipe⟩
    rw [fin, getElem?_prefix log (by omega)]
    exact hfin i hi
  · simp only [state, emitted, emitIdx, outByte, outData]; exact h.emitting

/-- Only WAITING has a dequeue copy under way (R120). -/
theorem inactive (h : ConsumerHolds s T outs) (hs : s.cons.state ≠ codeWaiting) : s.cons.dqActive = false := by
  rw [← Bool.not_eq_true]
  exact fun e => hs (h.dequeuing e).1

/-- The publication of a dequeue, from either level (R116, R120). -/
theorem dequeue (h : ConsumerHolds s T outs) (hs : s.cons.state = codeWaiting) (cfg : b.cfg = s.cfg)
    (log : b.inLog = s.inLog) (emitted : b.emitted = s.emitted) (state : b.cons.state = codeProcessing)
    (emitIdx : b.cons.emitIdx = s.cons.emitIdx) (outValid : b.cons.outValid = s.cons.outValid)
    (ended : b.cons.dqActive = false) (fin : ∀ i, i < 512 → readCell b.cons.fin i = s.inLog[512 * T + i]?)
    (run : Running b) : ConsumerHolds b (T + 1) outs := by
  have waits : s.cons.state ≠ codeEmitting := by rw [hs]; decide
  obtain ⟨len, hem⟩ := h.waiting hs
  refine ⟨by rw [state]; decide, emitIdx ▸ h.emitRange, fun _ => emitIdx.trans (h.emitRest waits), ?_, ?_, ?_, ?_,
    fun _ => ⟨by rw [len], emitted.trans hem, ?_, run⟩, ?_⟩
  · rw [outValid, state, h.offered, hs]; decide
  · rw [cfg, log]; exact h.filtered
  · rw [ended]; exact fun e => nomatch e
  · rw [state]; exact fun e => absurd e (by decide)
  · rw [log]; exact fin
  · rw [state]; exact fun e => absurd e (by decide)

/-- FIN holds the frame that PROCESSING works on (R117). -/
theorem samples (h : ConsumerHolds s T outs) (hs : s.cons.state = codeProcessing) (hlen : 512 * T ≤ s.inLog.length) :
    s.finSamples = .ok (unpackBytes (frameAt s.inLog outs.length)) := by
  obtain ⟨len, -, hfin, -⟩ := h.processing hs
  rw [show T - 1 = outs.length by omega] at hfin
  exact finSamples_frame (by omega) hfin

/-- The end of PROCESSING, from either level: one more output frame, and its first byte offered (R117, R120). -/
theorem process (h : ConsumerHolds s T outs) (hs : s.cons.state = codeProcessing) (hlen : 512 * T ≤ s.inLog.length)
    {v : List Sample} (hv : s.finSamples = .ok v) (cfg : b.cfg = s.cfg) (log : b.inLog = s.inLog)
    (emitted : b.emitted = s.emitted) (active : b.cons.dqActive = s.cons.dqActive) (published : Published v b) :
    ∃ out, ConsumerHolds b T (outs ++ [out]) := by
  obtain ⟨state, emitIdx, outValid, outData, r, hr, stored⟩ := published
  obtain ⟨len, hem, -, -⟩ := h.processing hs
  obtain rfl := Except.ok.inj (hv.symm.trans (h.samples hs hlen))
  have ended : b.cons.dqActive = false := active.trans (h.inactive (by rw [hs]; decide))
  refine ⟨outputFrame r.out, by rw [state]; decide, by rw [emitIdx]; decide, fun e => absurd state e, by simp [outValid, state],
    fun j out hj => ?_, ?_, ?_, ?_, fun _ => ⟨outs, outputFrame r.out, rfl, by simpa using len, ?_,
      fun e he => outByte_outputFrame stored he, by rw [emitIdx, outData]; rfl⟩⟩
  · rw [cfg, log]
    rcases Nat.lt_or_ge j outs.length with lt | ge
    · exact h.filtered j out (List.getElem?_append_left lt ▸ hj)
    · rw [List.getElem?_append_right ge, List.getElem?_singleton] at hj
      split at hj
      next e =>
        obtain rfl : j = outs.length := by omega
        cases hj
        exact ⟨r, cfg ▸ hr, rfl⟩
      next => cases hj
  · rw [ended]; exact fun e => nomatch e
  · rw [state]; exact fun e => absurd e (by decide)
  · rw [state]; exact fun e => absurd e (by decide)
  · rw [emitted, hem, emitIdx]; simp

/-- In EMITTING the frame being sent has 514 bytes (R118). -/
theorem emittingFrame (h : ConsumerHolds s T outs) (hs : s.cons.state = codeEmitting) :
    ∃ past last, outs = past ++ [last] ∧ outs.length = T ∧ last.length = 514 ∧
      s.emitted = past.flatten ++ last.take s.cons.emitIdx.toNat ∧ ∀ e, e ≤ 513 → s.outByte e = elemOf last e := by
  obtain ⟨past, last, rfl, len, hem, hbyte, -⟩ := h.emitting hs
  exact ⟨past, last, rfl, len, isOutput_length (h.filtered past.length last (by simp)), hem, hbyte⟩

/-- A byte sent before the last, from either level (R118, R120). -/
theorem send (h : ConsumerHolds s T outs) (hs : s.cons.state = codeEmitting) (more : s.cons.emitIdx ≠ 513#10) {x : Byte}
    (hx : s.outByte s.cons.emitIdx.toNat = .ok x) (cfg : b.cfg = s.cfg) (log : b.inLog = s.inLog)
    (emitted : b.emitted = s.emitted ++ [x]) (state : b.cons.state = s.cons.state)
    (emitIdx : b.cons.emitIdx = s.cons.emitIdx + 1#10) (outValid : b.cons.outValid = true)
    (active : b.cons.dqActive = s.cons.dqActive) (fout : b.cons.fout = s.cons.fout)
    (data : ∀ y, s.outByte (s.cons.emitIdx.toNat + 1) = .ok y → b.cons.outData = y) : ConsumerHolds b T outs := by
  have outByte (e : Nat) : b.outByte e = s.outByte e := by simp only [State.outByte, fout]
  have index : s.cons.emitIdx.toNat < 513 := by
    have ne := mt (BitVec.toNat_inj (y := 513#10)).1 more
    have := h.emitRange
    simp only [BitVec.toNat_ofNat] at ne
    omega
  have next : b.cons.emitIdx.toNat = s.cons.emitIdx.toNat + 1 := by
    rw [emitIdx, BitVec.toNat_add, BitVec.toNat_ofNat]; omega
  have emits := state.trans hs
  have ended : b.cons.dqActive = false := active.trans (h.inactive (by rw [hs]; decide))
  refine ⟨state ▸ h.code, by omega, fun e => absurd emits e, by simp [outValid, emits], ?_, ?_, ?_, ?_, fun _ => ?_⟩
  · rw [cfg, log]; exact h.filtered
  · rw [ended]; exact fun e => nomatch e
  · rw [emits]; exact fun e => absurd e (by decide)
  · rw [emits]; exact fun e => absurd e (by decide)
  · obtain ⟨past, last, houts, len, hlast, hem, hbyte⟩ := h.emittingFrame hs
    have sent : last[s.cons.emitIdx.toNat]? = some x := (elemOf_eq_ok _ _ _).1 ((hbyte _ (by omega)).symm.trans hx)
    have offer : last[s.cons.emitIdx.toNat + 1]? = some last[s.cons.emitIdx.toNat + 1] :=
      List.getElem?_eq_getElem (by omega)
    have read := (hbyte _ (by omega)).trans ((elemOf_eq_ok _ _ _).2 offer)
    refine ⟨past, last, houts, len, ?_, fun e he => (outByte e).trans (hbyte e he), ?_⟩
    · rw [emitted, hem, next, List.take_add_one, sent, List.append_assoc]; rfl
    · rw [next, outByte, read, data _ read]

/-- The last byte sent, from either level: the frame is out and CONS waits (R118, R120). -/
theorem sendLast (h : ConsumerHolds s T outs) (hs : s.cons.state = codeEmitting) (last : s.cons.emitIdx = 513#10) {x : Byte}
    (hx : s.outByte s.cons.emitIdx.toNat = .ok x) (cfg : b.cfg = s.cfg) (log : b.inLog = s.inLog)
    (emitted : b.emitted = s.emitted ++ [x]) (state : b.cons.state = codeWaiting) (emitIdx : b.cons.emitIdx = 0#10)
    (outValid : b.cons.outValid = false) (active : b.cons.dqActive = s.cons.dqActive) : ConsumerHolds b T outs := by
  have ended : b.cons.dqActive = false := active.trans (h.inactive (by rw [hs]; decide))
  refine ⟨by rw [state]; decide, by rw [emitIdx]; decide, fun _ => emitIdx, by simp [outValid, state, codeWaiting, codeEmitting],
    ?_, ?_, fun _ => ?_, ?_, ?_⟩
  · rw [cfg, log]; exact h.filtered
  · rw [ended]; exact fun e => nomatch e
  · obtain ⟨past, frame, rfl, len, hframe, hem, hbyte⟩ := h.emittingFrame hs
    have index : s.cons.emitIdx.toNat = 513 := by rw [last]; rfl
    rw [index] at hx hem
    have sent : frame[513]? = some x := (elemOf_eq_ok _ _ _).1 ((hbyte _ (Nat.le_refl _)).symm.trans hx)
    have whole : frame.take 513 ++ [x] = frame := by
      have := List.take_add_one (l := frame) (i := 513)
      rw [sent, List.take_of_length_le (by omega)] at this
      exact this.symm
    refine ⟨len, ?_⟩
    rw [emitted, hem, List.append_assoc, whole]; simp
  · rw [state]; exact fun e => absurd e (by decide)
  · rw [state]; exact fun e => absurd e (by decide)

end ConsumerHolds

end Sys2Proof.Machine
end

section
/-! The moves of CONS keep its part of the stream invariant (R116 to R118, R120). -/

namespace Sys2Proof.Machine

/-! ## What the moves read and write -/

/-- The sequencer offers no byte before it ends PROCESSING (R117). -/
theorem pipeOp_offers {s t : State} (h : pipeOp s = .ok t) (hp : t.cons.state = codeProcessing) :
    t.cons.emitIdx = s.cons.emitIdx ∧ t.cons.outValid = s.cons.outValid := by
  by_cases ph : s.pipe.phase = .narrow
  · obtain ⟨y, v, -, -, rfl⟩ := (pipeOp_narrow s t ph).1 h
    dsimp only at hp ⊢
    split at hp
    next more => rw [if_pos more]; exact ⟨by simp, by simp⟩
    next => exact absurd hp (by simp [codeProcessing, codeEmitting])
  · rw [pipeOp_cons h ph]; exact ⟨rfl, rfl⟩

theorem pipeOps_offers {n : Nat} {s t : State} (h : pipeOps n s = .ok t) (hp : t.cons.state = codeProcessing) :
    t.cons.emitIdx = s.cons.emitIdx ∧ t.cons.outValid = s.cons.outValid := by
  have keep := pipeOps_keeps (I := fun u => u.cons.state = codeProcessing →
      u.cons.emitIdx = s.cons.emitIdx ∧ u.cons.outValid = s.cons.outValid)
    (fun u v hu hv same hvp => ⟨(pipeOp_offers hv hvp).1.trans (same hu).1, (pipeOp_offers hv hvp).2.trans (same hu).2⟩) n h
  exact keep (fun _ => ⟨rfl, rfl⟩) hp

/-- The byte offered next is the one FOUT gives, where it gives one (R118). -/
theorem State.nextOutData_of_outByte {s : State} {e : Nat} {y : Byte} (h : s.outByte e = .ok y) : s.nextOutData e = y := by
  rw [State.nextOutData, h]

/-- A copy in ascending order, one byte further. -/
theorem readCell_writeCell_before {st : Store Byte} {n : Nat} {x : Byte} {src : Nat → Option Byte}
    (h : ∀ i, i < n → readCell st i = src i) (hx : some x = src n) :
    ∀ i, i < n + 1 → readCell (writeCell st n x) i = src i := by
  intro i hi
  rcases Nat.lt_succ_iff_lt_or_eq.1 hi with lt | rfl
  · rw [readCell_writeCell_other _ _ (by omega), h i lt]
  · rw [readCell_writeCell_same, hx]

/-- Slot `tf` holds frame `T` while a committed frame is left (R103). -/
theorem tailSlot {s : State} {H T : Nat} {hs ts : List Nat} (h : ProducerHolds s H T) (hr : RingCounts s H T hs ts)
    (ready : T + 1 ≤ hs.getLastD 0) {i : Nat} (hi : i < 512) :
    readCell s.ram (ramAddr s.cfg s.cons.tf i) = s.inLog[512 * T + i]? := by
  obtain ⟨-, -, view, -⟩ := hr.bounds
  rw [hr.tail]
  exact h.ring T (Nat.le_refl T) (by omega) i hi

namespace ConsumerHolds

variable {s b : State} {T : Nat} {outs : List (List Byte)}

/-- A byte read by a dequeue copy, or its start (R120). -/
theorem read (h : ConsumerHolds s T outs) (hs : s.cons.state = codeWaiting) (cfg : b.cfg = s.cfg) (log : b.inLog = s.inLog)
    (emitted : b.emitted = s.emitted) (state : b.cons.state = s.cons.state) (emitIdx : b.cons.emitIdx = s.cons.emitIdx)
    (outValid : b.cons.outValid = s.cons.outValid)
    (fin : ∀ i, i < b.cons.rdIdx.toNat → readCell b.cons.fin i = s.inLog[512 * T + i]?) : ConsumerHolds b T outs := by
  have waits := state.trans hs
  refine ⟨state ▸ h.code, emitIdx ▸ h.emitRange, by rw [state, emitIdx]; exact h.emitRest,
    by rw [state, outValid]; exact h.offered, by rw [cfg, log]; exact h.filtered, fun _ => ⟨waits, by rw [log]; exact fin⟩,
    by rw [state, emitted]; exact h.waiting, ?_, ?_⟩
  · rw [waits]; exact fun e => absurd e (by decide)
  · rw [waits]; exact fun e => absurd e (by decide)

/-- Operations of the sequencer that do not end PROCESSING (R120). -/
theorem run (h : ConsumerHolds s T outs) (hs : s.cons.state = codeProcessing) (cfg : b.cfg = s.cfg) (log : b.inLog = s.inLog)
    (emitted : b.emitted = s.emitted) (state : b.cons.state = s.cons.state) (emitIdx : b.cons.emitIdx = s.cons.emitIdx)
    (outValid : b.cons.outValid = s.cons.outValid) (active : b.cons.dqActive = s.cons.dqActive)
    (fin : b.cons.fin = s.cons.fin) (running : Running b) : ConsumerHolds b T outs := by
  have works := state.trans hs
  have ended : b.cons.dqActive = false := active.trans (h.inactive (by rw [hs]; decide))
  obtain ⟨len, hem, hfin, -⟩ := h.processing hs
  refine ⟨state ▸ h.code, emitIdx ▸ h.emitRange, by rw [state, emitIdx]; exact h.emitRest,
    by rw [state, outValid]; exact h.offered, by rw [cfg, log]; exact h.filtered, ?_, ?_,
    fun _ => ⟨len, emitted.trans hem, by rw [fin, log]; exact hfin, running⟩, ?_⟩
  · rw [ended]; exact fun e => nomatch e
  · rw [works]; exact fun e => absurd e (by decide)
  · rw [works]; exact fun e => absurd e (by decide)

/-- The byte that `out_data` holds is the one at `emit_idx` (R118). -/
theorem offeredByte (h : ConsumerHolds s T outs) (hs : s.cons.state = codeEmitting) :
    s.outByte s.cons.emitIdx.toNat = .ok s.cons.outData := by
  obtain ⟨-, -, -, -, -, -, hx⟩ := h.emitting hs
  exact hx

end ConsumerHolds

/-! ## Every move of CONS -/

theorem ConsumerMove.holds {s b : State} {H T : Nat} {hs ts : List Nat} {outs : List (List Byte)} (hl : s.cfg.legal = true)
    (hp : ProducerHolds s H T) (hr : RingCounts s H T hs ts) (h : ConsumerHolds s T outs) (m : ConsumerMove s b) :
    ∃ outs', ConsumerHolds b (countAfter T s.cons.tf b.cons.tf) outs' := by
  obtain ⟨-, known, view, -⟩ := hr.bounds
  have hlen : 512 * T ≤ s.inLog.length := by have := hp.staged_length_le; omega
  have published : countAfter T s.cons.tf (ptrNext s.slots s.cons.tf) = T + 1 :=
    countAfter_ptrNext (legal_slots hl).1 hr.tail
  cases m with
  | stays => rw [countAfter_same]; exact ⟨outs, h⟩
  | dequeues frame hs ready hf =>
    obtain ⟨-, hframe⟩ := (slotReadFrom_eq_ok _ _ _ _ _ _).1 hf
    rw [State.dequeued_cons_tf, published]
    refine ⟨outs, h.dequeue hs rfl rfl rfl rfl rfl rfl rfl (fun i hi => ?_) (.start rfl rfl rfl rfl rfl)⟩
    have cell := hframe i hi
    rw [Nat.zero_add, tailSlot hp hr ((hr.framesReady_iff hl).1 ready) hi] at cell
    rw [State.dequeued_cons_fin, readCell_fullStore, cell]
  | processes v r hs hv hfr =>
    rw [State.processed_cons, countAfter_same]
    obtain ⟨out, done⟩ := h.process (b := s.processed r) hs hlen hv rfl rfl rfl rfl
      ⟨rfl, rfl, rfl, rfl, r, hfr, .full (filterFrame_out_length hfr)⟩
    exact ⟨_, done⟩
  | emits x hs hx =>
    rw [State.emitting_cons_tf, countAfter_same]
    by_cases last : s.cons.emitIdx = 513#10
    · exact ⟨outs, h.sendLast hs last hx (by simp) (by simp) (by simp) (by simp [last]) (by simp [last]) (by simp [last])
        (by simp)⟩
    · exact ⟨outs, h.send hs last hx (by simp) (by simp) (by simp) (by simp [last]) (by simp [last]) (by simp [last]) (by simp)
        (by simp) fun y hy => by simp [last, State.nextOutData_of_outByte hy]⟩
  | stalls =>
    have reading : s.cons.dqActive = true → 512 * (T + 1) ≤ s.inLog.length := fun hq => by
      have := hr.reading hq; have := hp.staged_length_le; omega
    exact ⟨outs, (countAfter_same T _).symm ▸ h.congr rfl rfl rfl rfl (List.prefix_refl _) hlen reading⟩
  | starts hs =>
    exact ⟨outs, (countAfter_same T _).symm ▸ h.read hs rfl rfl rfl rfl rfl rfl fun i hi => absurd hi (Nat.not_lt_zero i)⟩
  | reads x hs hq hx more =>
    obtain ⟨-, hfin⟩ := h.dequeuing hq
    have cell := hx.symm.trans (tailSlot hp hr (hr.reading hq) s.cons.rdIdx.isLt)
    exact ⟨outs, (countAfter_same T _).symm ▸ h.read hs rfl rfl rfl rfl rfl rfl fun i hi =>
      readCell_writeCell_before hfin cell i (copyIndex_succ more ▸ hi)⟩
  | readsLast x hs hq hx last =>
    obtain ⟨-, hfin⟩ := h.dequeuing hq
    have cell := hx.symm.trans (tailSlot hp hr (hr.reading hq) s.cons.rdIdx.isLt)
    have whole : s.cons.rdIdx.toNat + 1 = 512 := by rw [last]; rfl
    exact ⟨outs, published.symm ▸ h.dequeue hs rfl rfl rfl rfl rfl rfl rfl
      (fun i hi => readCell_writeCell_before hfin cell i (whole ▸ hi)) (.start rfl rfl rfl rfl rfl)⟩
  | runs n u hs hu =>
    have only := pipeOps_pipelineOnly hu
    have tf : u.stalled.cons.tf = s.cons.tf := by rw [State.stalled_cons, only.cons]; rfl
    have active : u.stalled.cons.dqActive = s.cons.dqActive := by rw [State.stalled_cons, only.cons]; rfl
    obtain ⟨-, -, -, started⟩ := h.processing hs
    have hv := h.samples hs hlen
    rw [tf, countAfter_same]
    obtain ⟨works, running⟩ | ⟨state, emitIdx, outValid, outData, filtered⟩ :=
      (started.congr (t := s.drawn) rfl rfl rfl rfl).pipeOps hs hv hu
    · obtain ⟨emitIdx, outValid⟩ := pipeOps_offers hu works
      exact ⟨outs, h.run hs only.cfg only.inLog only.emitted (works.trans hs.symm) emitIdx outValid active only.fin
        (running.congr rfl rfl rfl rfl)⟩
    · obtain ⟨out, done⟩ := h.process hs hlen hv (b := u.stalled) only.cfg only.inLog only.emitted active
        ⟨state, emitIdx, outValid, outData, filtered⟩
      exact ⟨_, done⟩
  | sends x hs more hx =>
    exact ⟨outs, (countAfter_same T _).symm ▸ h.send hs more (h.offeredByte hs) rfl rfl rfl rfl rfl (h.offered.2 hs) rfl rfl
      fun y hy => Except.ok.inj (hx.symm.trans hy)⟩
  | sendsLast hs last =>
    exact ⟨outs, (countAfter_same T _).symm ▸ h.sendLast hs last (h.offeredByte hs) rfl rfl rfl rfl rfl rfl rfl⟩

end Sys2Proof.Machine
end

section
/-! The stream invariant is kept by every step, of both levels (R13, R96, R103, R104). -/

namespace Sys2Proof.Machine

/-! ## One transition -/

/-- What a transition makes of the moves `a` of PROD and `b` of CONS, both from `s`: their registers, but for the crossing. -/
structure Combines (s a b t : State) : Prop where
  cfg : t.cfg = s.cfg
  prod : t.prod = { a.prod with hfGray := t.prod.hfGray, tfSync := t.prod.tfSync }
  ram : t.ram = a.ram
  log : t.inLog = a.inLog
  cons : t.cons = { b.cons with tfGray := t.cons.tfGray, hfSync := t.cons.hfSync }
  pipe : t.pipe = b.pipe
  emitted : t.emitted = b.emitted
  head : CrossingMove s.prod.hf s.prod.hfGray s.cons.hfSync t.prod.hfGray t.cons.hfSync
  tail : CrossingMove s.cons.tf s.cons.tfGray s.prod.tfSync t.cons.tfGray t.prod.tfSync

theorem Combines.streamInv {s a b t : State} (c : Combines s a b t) (hl : s.cfg.legal = true) (ma : ProducerMove s a)
    (mb : ConsumerMove s b) (h : StreamInv s) : StreamInv t := by
  obtain ⟨H, T, hs, ts, outs, counts⟩ := h
  obtain ⟨hp, hc, hr⟩ := (streamCounts_iff ..).1 counts
  obtain ⟨acfg, -⟩ := ma.frame
  obtain ⟨bcfg, -, -, -, blog, -⟩ := mb.frame
  have hf : t.prod.hf = a.prod.hf := by rw [c.prod]
  have pstate : t.prod.state = a.prod.state := by rw [c.prod]
  have cphase : t.prod.cphase = a.prod.cphase := by rw [c.prod]
  have copyIdx : t.prod.copyIdx = a.prod.copyIdx := by rw [c.prod]
  have tf : t.cons.tf = b.cons.tf := by rw [c.cons]
  have active : t.cons.dqActive = b.cons.dqActive := by rw [c.cons]
  have tailStep := mb.tailStep hl hr
  obtain ⟨-, -, view, -⟩ := hr.bounds
  have hlen := hp.staged_length_le
  obtain ⟨hs', ts', ring⟩ := hr.moves hl (ma.headStep hl hr) tailStep c.cfg hf pstate cphase tf active c.head c.tail
  obtain ⟨outs', held⟩ := mb.holds hl hp hr hc
  refine ⟨_, _, hs', ts', outs', (streamCounts_iff ..).2 ⟨?_, ?_, ring⟩⟩
  · exact (ma.holds hl hr hp).congr (le_countAfter ..) (c.cfg.trans acfg.symm) pstate (by rw [c.prod]) (by rw [c.prod]) c.ram
      c.log fun hq => .inr ⟨cphase ▸ hq, copyIdx⟩
  · have known := tailStep.known
    refine held.congr (c.cfg.trans bcfg.symm) c.cons (by rw [c.pipe]) c.emitted (c.log ▸ blog ▸ ma.inLog_grows)
      (blog ▸ by omega) fun hq => ?_
    have := tailStep.reading hq
    rw [blog]; omega

/-! ## The two domains -/

/-- What the `clk_in` domain makes of a move `a` of PROD: its registers, but for the code and the chain of the crossing. -/
structure ProducerSide (s a t : State) : Prop where
  prod : t.prod = { a.prod with hfGray := t.prod.hfGray, tfSync := t.prod.tfSync }
  ram : t.ram = a.ram
  log : t.inLog = a.inLog
  cfg : t.cfg = s.cfg
  cons : t.cons = s.cons
  pipe : t.pipe = s.pipe
  emitted : t.emitted = s.emitted
  source : t.prod.hfGray = s.prod.hfGray ∨ t.prod.hfGray = grayOf s.prod.hf
  chain : t.prod.tfSync = s.prod.tfSync ∨ t.prod.tfSync = shiftIn s.cons.tfGray s.prod.tfSync

/-- What the `clk_proc` domain makes of a move `b` of CONS. -/
structure ConsumerSide (s b t : State) : Prop where
  cons : t.cons = { b.cons with tfGray := t.cons.tfGray, hfSync := t.cons.hfSync }
  pipe : t.pipe = b.pipe
  emitted : t.emitted = b.emitted
  cfg : t.cfg = s.cfg
  prod : t.prod = s.prod
  ram : t.ram = s.ram
  log : t.inLog = s.inLog
  source : t.cons.tfGray = s.cons.tfGray ∨ t.cons.tfGray = grayOf s.cons.tf
  chain : t.cons.hfSync = s.cons.hfSync ∨ t.cons.hfSync = shiftIn s.prod.hfGray s.cons.hfSync

theorem ProducerMove.side {s a : State} (m : ProducerMove s a) : ProducerSide s a a := by
  obtain ⟨cfg, cons, pipe, -, emitted, -, gray, sync⟩ := m.frame
  exact ⟨rfl, rfl, rfl, cfg, cons, pipe, emitted, .inl gray, .inl sync⟩

theorem ConsumerMove.side {s b : State} (m : ConsumerMove s b) : ConsumerSide s b b := by
  obtain ⟨cfg, prod, ram, -, log, gray, sync⟩ := m.frame
  exact ⟨rfl, rfl, rfl, cfg, prod, ram, log, .inl gray, .inl sync⟩

theorem InEdge.side {s t : State} (h : InEdge s t) : ∃ a, ProducerMove s a ∧ ProducerSide s a t := by
  cases h with
  | held => exact ⟨s, .stays, rfl, rfl, rfl, rfl, rfl, rfl, rfl, .inl rfl, .inl rfl⟩
  | ran a out m =>
    obtain ⟨cfg, cons, pipe, -, emitted, -⟩ := m.frame
    exact ⟨a, m, rfl, rfl, rfl, cfg, cons, pipe, emitted, .inr rfl, .inr rfl⟩

theorem ProcEdge.side {s t : State} (h : ProcEdge s t) : ∃ b, ConsumerMove s b ∧ ConsumerSide s b t := by
  cases h with
  | held => exact ⟨s, .stays, rfl, rfl, rfl, rfl, rfl, rfl, rfl, .inl rfl, .inl rfl⟩
  | ran b out m =>
    obtain ⟨cfg, prod, ram, -, log, -⟩ := m.frame
    exact ⟨b, m, rfl, rfl, rfl, cfg, prod, ram, log, .inr rfl, .inr rfl⟩

theorem ProducerSide.combines {s a t : State} (h : ProducerSide s a t) : Combines s a s t :=
  ⟨h.cfg, h.prod, h.ram, h.log, by rw [h.cons], h.pipe, h.emitted,
    .edge _ _ _ h.source (.inl rfl) (.inl (by rw [h.cons])), .edge _ _ _ (.inl (by rw [h.cons])) h.chain (.inl rfl)⟩

theorem ConsumerSide.combines {s b t : State} (h : ConsumerSide s b t) : Combines s s b t :=
  ⟨h.cfg, by rw [h.prod], h.ram, h.log, h.cons, h.pipe, h.emitted,
    .edge _ _ _ (.inl (by rw [h.prod])) h.chain (.inl rfl), .edge _ _ _ h.source (.inl rfl) (.inl (by rw [h.prod]))⟩

/-- Edges that coincide combine what each domain does, and each chain may take the new code of its source (R99). -/
theorem combines_joined {s a b ta tb : State} (newHead newTail : Bool) (ha : ProducerSide s a ta) (hb : ConsumerSide s b tb) :
    Combines s a b (s.joined ta tb newHead newTail) := by
  have chosen (c : Prop) [Decidable c] (g : Nat) (base : List Nat) :
      (if c then resolvedNew g base else base) = base ∨ (if c then resolvedNew g base else base) = resolvedNew g base := by
    split
    · exact .inr rfl
    · exact .inl rfl
  refine ⟨ha.cfg, ?_, ha.ram, ha.log, ?_, hb.pipe, hb.emitted, .edge _ _ _ ha.source hb.chain (chosen ..),
    .edge _ _ _ hb.source ha.chain (chosen ..)⟩
  · dsimp only [State.joined]; rw [ha.prod]
  · dsimp only [State.joined]; rw [hb.cons]

/-! ## Every step -/

theorem Transition.streamInv {s t : State} (hl : s.cfg.legal = true) (h : Transition s t) (inv : StreamInv s) :
    StreamInv t := by
  have still {u : State} (c : Combines s s s u) : StreamInv u := c.streamInv hl .stays .stays inv
  have head := CrossingMove.stays s.prod.hf s.prod.hfGray s.cons.hfSync
  have tail := CrossingMove.stays s.cons.tf s.cons.tfGray s.prod.tfSync
  cases h with
  | called | line => exact still ⟨rfl, rfl, rfl, rfl, rfl, rfl, rfl, head, tail⟩
  | produced _ m => exact m.side.combines.streamInv hl m .stays inv
  | consumed _ m => exact m.side.combines.streamInv hl .stays m inv
  | headCrossed => exact still ⟨rfl, rfl, rfl, rfl, rfl, rfl, rfl, .crossed, tail⟩
  | tailCrossed => exact still ⟨rfl, rfl, rfl, rfl, rfl, rfl, rfl, head, .crossed⟩
  | clkIn _ h =>
    obtain ⟨a, m, side⟩ := h.side
    exact side.combines.streamInv hl m .stays inv
  | clkProc _ h =>
    obtain ⟨b, m, side⟩ := h.side
    exact side.combines.streamInv hl .stays m inv
  | clkBoth _ _ newHead newTail ha hb =>
    obtain ⟨a, ma, aside⟩ := ha.side
    obtain ⟨b, mb, bside⟩ := hb.side
    exact (combines_joined newHead newTail aside bside).streamInv hl ma mb inv

/-- Taking an event from the inbox moves no register. -/
theorem StreamInv.inbox {s : State} (inv : StreamInv s) (hl : s.cfg.legal = true) (rest : List Event) :
    StreamInv { s with inbox := rest } :=
  Combines.streamInv (s := s) (a := s) (b := s)
    ⟨rfl, rfl, rfl, rfl, rfl, rfl, rfl, .stays .., .stays ..⟩ hl .stays .stays inv

/-- After a reset both counts are 0, and so is every code that crosses (R126 item 1, R134). -/
theorem streamInv_registersReset {s : State} (hl : s.cfg.legal = true) (line : ResetUnit) :
    StreamInv (s.registersReset line) := by
  have slots := (legal_slots hl).1
  have codes : 0 :: List.replicate s.cfg.syncStages 0 =
      (List.replicate (s.cfg.syncStages + 1) 0).map fun n => grayOf (n % s.cfg.slots) := by
    rw [List.map_replicate, Nat.zero_mod]; rfl
  have order : Ordered (0 :: List.replicate (s.cfg.syncStages + 1) 0) :=
    List.pairwise_replicate (n := s.cfg.syncStages + 2).2 (.inr (Nat.le_refl 0))
  have room : 0 + 1 ≤ (List.replicate (s.cfg.syncStages + 1) 0).getLastD 0 + s.cfg.slots := by omega
  have notAccum : codeIdle ≠ codeAccum := by decide
  have notCommit : codeIdle ≠ codeCommit := by decide
  have notProcessing : codeWaiting ≠ codeProcessing := by decide
  have notEmitting : codeWaiting ≠ codeEmitting := by decide
  refine ⟨0, 0, _, _, [], (streamCounts_iff ..).2 ⟨?_, ?_, (Nat.zero_mod _).symm, (Nat.zero_mod _).symm, codes, codes,
    List.length_replicate, List.length_replicate, order, order, Nat.zero_le _, room, fun e => absurd e notCommit,
    fun e => nomatch e⟩⟩
  · exact ⟨(by decide : codeIdle ≠ codeUnused), fun _ => rfl, fun e => absurd e notAccum, fun e => absurd e notCommit, rfl,
      fun i hi => absurd hi (Nat.not_lt_zero i), fun e => absurd e notCommit, fun c _ hc => absurd hc (Nat.not_lt_zero c)⟩
  · exact ⟨(by decide : codeWaiting ≠ codeUnused), Nat.zero_le _, fun _ => rfl,
      ⟨fun e => (nomatch e), fun e => absurd e notEmitting⟩, fun j out h => (nomatch h), fun e => (nomatch e),
      fun _ => ⟨rfl, rfl⟩, fun e => absurd e notProcessing, fun e => absurd e notEmitting⟩

/-- Settles O51: a step resets the registers, or combines a move of each agent with a move of the crossing, and each keeps its
part of the invariant. -/
theorem streamInvariantIsKept : Obligations.StreamInvariantIsKept := by
  intro s t inv h
  obtain ⟨hl, rfl | ⟨rest, ⟨-, l, rfl⟩ | ht⟩⟩ := step_transition s t h
  · exact inv
  · exact streamInv_registersReset (s := { s with inbox := rest }) hl l
  · exact Transition.streamInv (s := { s with inbox := rest }) hl ht (inv.inbox hl rest)

end Sys2Proof.Machine
end

section
/-! The forms of a transition that the invariants of every step share: which move of each agent it combines, and what no move of an
agent writes. -/

namespace Sys2Proof.Machine

/-- Every transition combines a move of PROD with one of CONS, both from the state before it (R13, R16, R126 item 3). -/
theorem Transition.combines {s t : State} (h : Transition s t) :
    ∃ a b, ProducerMove s a ∧ ConsumerMove s b ∧ Combines s a b t := by
  have head := CrossingMove.stays s.prod.hf s.prod.hfGray s.cons.hfSync
  have tail := CrossingMove.stays s.cons.tf s.cons.tfGray s.prod.tfSync
  cases h with
  | called | line => exact ⟨s, s, .stays, .stays, rfl, rfl, rfl, rfl, rfl, rfl, rfl, head, tail⟩
  | produced _ m => exact ⟨t, s, m, .stays, m.side.combines⟩
  | consumed _ m => exact ⟨s, t, .stays, m, m.side.combines⟩
  | headCrossed => exact ⟨s, s, .stays, .stays, rfl, rfl, rfl, rfl, rfl, rfl, rfl, .crossed, tail⟩
  | tailCrossed => exact ⟨s, s, .stays, .stays, rfl, rfl, rfl, rfl, rfl, rfl, rfl, head, .crossed⟩
  | clkIn _ h =>
    obtain ⟨a, m, side⟩ := h.side
    exact ⟨a, s, m, .stays, side.combines⟩
  | clkProc _ h =>
    obtain ⟨b, m, side⟩ := h.side
    exact ⟨s, b, .stays, m, side.combines⟩
  | clkBoth _ _ newHead newTail ha hb =>
    obtain ⟨a, ma, aside⟩ := ha.side
    obtain ⟨b, mb, bside⟩ := hb.side
    exact ⟨a, b, ma, mb, combines_joined newHead newTail aside bside⟩

/-- What no move of an agent writes: the RAM contents that the last reset left in place (R136) and the arrays of the functions
called by name (log entry 6). -/
structure KeepsAside (s t : State) : Prop where
  ramKept : t.ramKept = s.ramKept
  work : t.work = s.work

theorem KeepsAside.trans {s t u : State} (h : KeepsAside s t) (k : KeepsAside t u) : KeepsAside s u :=
  ⟨k.ramKept.trans h.ramKept, k.work.trans h.work⟩

theorem pipeOp_keepsAside {s t : State} (h : pipeOp s = .ok t) : KeepsAside s t := by
  cases hp : s.pipe.phase with
  | widen => obtain ⟨_, _, -, -, rfl⟩ := (pipeOp_widen s t hp).1 h; constructor <;> simp
  | bitrev => obtain ⟨_, -, rfl⟩ := (pipeOp_bitrev s t hp).1 h; constructor <;> simp
  | stages => obtain ⟨_, _, _, _, _, -, -, -, -, -, rfl⟩ := (pipeOp_stages s t hp).1 h; constructor <;> simp
  | mask => obtain rfl := (pipeOp_mask s t hp).1 h; constructor <;> simp
  | phases => obtain ⟨_, -, rfl⟩ := (pipeOp_phases s t hp).1 h; constructor <;> simp
  | sums => obtain ⟨_, _, _, _, -, -, -, -, rfl⟩ := (pipeOp_sums s t hp).1 h; constructor <;> simp
  | narrow =>
    obtain ⟨_, _, -, -, rfl⟩ := (pipeOp_narrow s t hp).1 h
    dsimp only
    split <;> constructor <;> simp

theorem ProducerMove.keepsAside {s a : State} (m : ProducerMove s a) : KeepsAside s a := by
  cases m <;> constructor <;> simp

theorem ConsumerMove.keepsAside {s b : State} (m : ConsumerMove s b) : KeepsAside s b := by
  cases m with
  | runs n u hs hu =>
    have kept : KeepsAside s.drawn u :=
      pipeOps_keeps (I := KeepsAside s.drawn) (fun _ _ _ hv hu => hu.trans (pipeOp_keepsAside hv)) n hu ⟨rfl, rfl⟩
    exact ⟨kept.ramKept, kept.work⟩
  | _ => constructor <;> simp

theorem InEdge.keepsAside {s t : State} (h : InEdge s t) : KeepsAside s t := by
  cases h with
  | held => exact ⟨rfl, rfl⟩
  | ran a out m => exact ⟨m.keepsAside.ramKept, m.keepsAside.work⟩

theorem ProcEdge.keepsAside {s t : State} (h : ProcEdge s t) : KeepsAside s t := by
  cases h with
  | held => exact ⟨rfl, rfl⟩
  | ran b out m => exact ⟨m.keepsAside.ramKept, m.keepsAside.work⟩

theorem Transition.ramKept {s t : State} (h : Transition s t) : t.ramKept = s.ramKept := by
  cases h with
  | produced _ m => exact m.keepsAside.ramKept
  | consumed _ m => exact m.keepsAside.ramKept
  | clkIn _ h => exact h.keepsAside.ramKept
  | clkProc _ h => exact h.keepsAside.ramKept
  | clkBoth a b _ _ ha _ => exact ha.keepsAside.ramKept
  | _ => rfl

end Sys2Proof.Machine
end

section
/-! Every store stays in its canonical form (R24, R30; log entry 11): PROD writes STAGE and the ring RAM, CONS writes FIN, FOUT and
the pipeline's arrays, and only a call writes the arrays of the functions called by name. -/

namespace Sys2Proof.Machine

/-! ## The parts of the invariant -/

/-- Every array has the canonical form. -/
structure Workspace.Canonical (w : Workspace) : Prop where
  x : rising w.x = true
  cosp : rising w.cosp = true
  sinp : rising w.sinp = true
  y : rising w.y = true

/-- The stores that PROD writes. -/
structure ProducerStores (s : State) : Prop where
  ram : Memory.wf s.cfg s.ram = true
  stage : rising s.prod.stage = true

/-- The stores that CONS writes. -/
structure ConsumerStores (s : State) : Prop where
  fin : rising s.cons.fin = true
  fout : rising s.cons.fout = true
  pipe : s.pipe.toWorkspace.Canonical

theorem storesCanonical_iff (s : State) :
    StoresCanonical s ↔
      ProducerStores s ∧ ConsumerStores s ∧ Memory.wf s.cfg s.ramKept = true ∧ s.work.Canonical := by
  constructor
  · rintro ⟨ram, kept, stage, fin, fout, x, cosp, sinp, y, wx, wcosp, wsinp, wy⟩
    exact ⟨⟨ram, stage⟩, ⟨fin, fout, x, cosp, sinp, y⟩, kept, wx, wcosp, wsinp, wy⟩
  · rintro ⟨⟨ram, stage⟩, ⟨fin, fout, x, cosp, sinp, y⟩, kept, wx, wcosp, wsinp, wy⟩
    exact ⟨ram, kept, stage, fin, fout, x, cosp, sinp, y, wx, wcosp, wsinp, wy⟩

/-! ## The arrays of a workspace -/

namespace Workspace.Canonical

variable {w : Workspace}

theorem empty : Workspace.empty.Canonical := ⟨rfl, rfl, rfl, rfl⟩

theorem writeX (h : w.Canonical) (i : Nat) (z : Cplx) : ({ w with x := writeCell w.x i z } : Workspace).Canonical :=
  ⟨rising_writeCell _ _ _ h.x, h.cosp, h.sinp, h.y⟩

theorem writePhase (h : w.Canonical) (i : Nat) (c : Cplx) :
    ({ w with cosp := writeCell w.cosp i c.re, sinp := writeCell w.sinp i c.im } : Workspace).Canonical :=
  ⟨h.x, rising_writeCell _ _ _ h.cosp, rising_writeCell _ _ _ h.sinp, h.y⟩

theorem writeY (h : w.Canonical) (i : Nat) (v : F32) : ({ w with y := writeCell w.y i v } : Workspace).Canonical :=
  ⟨h.x, h.cosp, h.sinp, rising_writeCell _ _ _ h.y⟩

theorem withSpectrum (h : w.Canonical) (x : List Cplx) : (w.withSpectrum x).Canonical :=
  ⟨rising_fullStore x, h.cosp, h.sinp, h.y⟩

theorem withPhaseTable (h : w.Canonical) (table : List Cplx) : (w.withPhaseTable table).Canonical :=
  ⟨h.x, rising_fullStore _, rising_fullStore _, h.y⟩

theorem withOutputs (h : w.Canonical) (y : List F32) : (w.withOutputs y).Canonical :=
  ⟨h.x, h.cosp, h.sinp, rising_fullStore y⟩

theorem withFiltered (h : w.Canonical) (r : Filtered) : (w.withFiltered r).Canonical :=
  ((h.withSpectrum r.x).withPhaseTable r.table).withOutputs r.y

end Workspace.Canonical

/-! ## PROD and CONS keep their stores -/

theorem ProducerMove.stores {s a : State} (hl : s.cfg.legal = true) (m : ProducerMove s a) (h : ProducerStores s) :
    ProducerStores a := by
  have cap : 0 < s.cfg.cap := by have := legal_cap hl; omega
  have written (i : Nat) (b : Byte) : Memory.wf s.cfg (ramWrite s.ram (ramAddr s.cfg s.prod.hf i) b) = true :=
    memory_wf_ramWrite _ _ _ _ h.ram (ramAddr_lt _ _ _ cap)
  cases m with
  | stays => exact h
  | accepts d => exact ⟨h.ram, rising_writeCell _ _ _ h.stage⟩
  | commits frame => exact ⟨memory_wf_slotWriteFrom _ _ _ _ _ cap h.ram, h.stage⟩
  | waitsForRoom => exact ⟨by simpa using h.ram, by simpa using h.stage⟩
  | checks =>
    refine ⟨by simpa using h.ram, ?_⟩
    unfold State.checkEdge
    (repeat' split) <;> simpa using h.stage
  | pauses =>
    refine ⟨by simpa using h.ram, ?_⟩
    unfold State.waitEdge
    split <;> exact h.stage
  | copies b => exact ⟨written _ b, h.stage⟩
  | publishes b => exact ⟨written _ b, h.stage⟩

@[simp] theorem State.nextIndex_toWorkspace (s : State) (ph : PipePhase) (n : Nat) :
    (s.nextIndex ph n).pipe.toWorkspace = s.pipe.toWorkspace := by unfold State.nextIndex; split <;> rfl

@[simp] theorem State.nextButterfly_toWorkspace (s : State) : s.nextButterfly.pipe.toWorkspace = s.pipe.toWorkspace := by
  simp only [State.nextButterfly]; (repeat' split) <;> rfl

/-- An operation that leaves CONS alone keeps its stores if it keeps the arrays of the pipeline. -/
theorem ConsumerStores.of_pipe {s t : State} (h : ConsumerStores s) (cons : t.cons = s.cons)
    (pipe : t.pipe.toWorkspace.Canonical) : ConsumerStores t := by
  refine ⟨?_, ?_, pipe⟩ <;> rw [cons]
  · exact h.fin
  · exact h.fout

theorem pipeOp_stores {s t : State} (h : pipeOp s = .ok t) (inv : ConsumerStores s) : ConsumerStores t := by
  cases hp : s.pipe.phase with
  | widen =>
    obtain ⟨_, _, -, -, rfl⟩ := (pipeOp_widen s t hp).1 h
    exact inv.of_pipe (by simp) (by simpa using inv.pipe.writeX _ _)
  | bitrev =>
    obtain ⟨_, -, rfl⟩ := (pipeOp_bitrev s t hp).1 h
    exact inv.of_pipe (by simp) (by simpa using inv.pipe.withSpectrum _)
  | stages =>
    obtain ⟨_, _, _, _, _, -, -, -, -, -, rfl⟩ := (pipeOp_stages s t hp).1 h
    exact inv.of_pipe (by simp) (by simpa using (inv.pipe.writeX _ _).writeX _ _)
  | mask =>
    obtain rfl := (pipeOp_mask s t hp).1 h
    refine inv.of_pipe (by simp) ?_
    rw [State.nextIndex_toWorkspace]
    split
    · exact inv.pipe.writeX _ _
    · exact inv.pipe
  | phases =>
    obtain ⟨_, -, rfl⟩ := (pipeOp_phases s t hp).1 h
    exact inv.of_pipe (by simp) (by simpa using inv.pipe.writePhase _ _)
  | sums =>
    obtain ⟨_, _, _, _, -, -, -, -, rfl⟩ := (pipeOp_sums s t hp).1 h
    exact inv.of_pipe (by simp) (by simpa using inv.pipe.writeY _ _)
  | narrow =>
    obtain ⟨_, v, -, -, rfl⟩ := (pipeOp_narrow s t hp).1 h
    have fout := rising_writeCell _ s.pipe.indexCtr v inv.fout
    dsimp only
    split <;> exact ⟨by simpa using inv.fin, by simpa using fout, by simpa using inv.pipe⟩

theorem ConsumerMove.stores {s b : State} (m : ConsumerMove s b) (h : ConsumerStores s) : ConsumerStores b := by
  cases m with
  | dequeues frame => exact ⟨rising_fullStore frame, h.fout, h.pipe⟩
  | processes v r => exact ⟨h.fin, rising_fullStore r.out, h.pipe.withFiltered r⟩
  | emits => exact ⟨by simpa using h.fin, by simpa using h.fout, by simpa using h.pipe⟩
  | reads x | readsLast x => exact ⟨rising_writeCell _ _ _ h.fin, h.fout, h.pipe⟩
  | runs n u hs hu =>
    obtain ⟨fin, fout, pipe⟩ : ConsumerStores u := pipeOps_keeps (fun _ _ _ => pipeOp_stores) n hu ⟨h.fin, h.fout, h.pipe⟩
    exact ⟨fin, fout, pipe⟩
  | _ => exact ⟨h.fin, h.fout, h.pipe⟩

theorem Transition.stores {s t : State} (hl : s.cfg.legal = true) (h : Transition s t) (inv : StoresCanonical s)
    (work : t.work.Canonical) : StoresCanonical t := by
  obtain ⟨hp, hc, kept, -⟩ := (storesCanonical_iff s).1 inv
  obtain ⟨a, b, ma, mb, c⟩ := h.combines
  obtain ⟨ram, stage⟩ := ma.stores hl hp
  obtain ⟨fin, fout, pipe⟩ := mb.stores hc
  have cfg : t.cfg = a.cfg := c.cfg.trans ma.frame.1.symm
  refine (storesCanonical_iff t).2 ⟨⟨?_, ?_⟩, ⟨?_, ?_, ?_⟩, ?_, work⟩
  · rw [cfg, c.ram]; exact ram
  · rw [c.prod]; exact stage
  · rw [c.cons]; exact fin
  · rw [c.cons]; exact fout
  · rw [c.pipe]; exact pipe
  · rw [c.cfg, h.ramKept]; exact kept

/-! ## The arrays of functions called by name -/

/-- A function row writes elements of the arrays or fills an array whole. -/
theorem exec_functionRow_work {i : Instr} {s t : State} (hi : isFunctionRow i = true) (h : exec i s = .next t)
    (inv : s.work.Canonical) : t.work.Canonical := by
  cases i
  case syncH | syncT | accept | commitOk | commitBp | dequeue | process | emitSof | emitData | emitEof | reset =>
    simp [isFunctionRow] at hi
  case romRead | cos | sin | cmul | widen | narrow =>
    simp only [exec, execRomRead, execCos, execSin, execCmul, execWiden, execNarrow, finish_eq_next, bind_eq_ok,
      pure_eq_ok] at h
    obtain ⟨_, -, rfl⟩ := h
    exact inv
  case kbounds | grayEnc | grayDec =>
    simp only [exec, execKbounds, execGrayEnc, execGrayDec] at h
    split at h <;> cases h
    exact inv
  case unpack =>
    obtain ⟨-, _, _, -, -, rfl⟩ := (execUnpack_eq_next _ _ _).1 h
    exact inv
  case pack =>
    simp only [exec, execPack, finish_eq_next, bind_eq_ok, pure_eq_ok] at h
    obtain ⟨_, -, _, -, _, -, rfl⟩ := h
    exact inv
  case stageTw =>
    simp only [exec, execStageTw] at h
    split at h
    · simp only [finish_eq_next, bind_eq_ok, pure_eq_ok] at h
      obtain ⟨_, -, rfl⟩ := h
      exact inv
    · cases h
  case butterfly =>
    simp only [exec, execButterfly] at h
    split at h
    · simp only [finish_eq_next, bind_eq_ok, pure_eq_ok] at h
      obtain ⟨_, -, _, -, _, -, _, -, _, -, rfl⟩ := h
      exact (inv.writeX _ _).writeX _ _
    · cases h
  case bitrev | mask =>
    simp only [exec, execBitrev, execMask, finish_eq_next, bind_eq_ok, pure_eq_ok] at h
    obtain ⟨_, -, _, -, rfl⟩ := h
    exact inv.withSpectrum _
  case fft =>
    simp only [exec, execFft, finish_eq_next, bind_eq_ok, pure_eq_ok] at h
    obtain ⟨_, -, _, -, _, -, rfl⟩ := h
    exact inv.withSpectrum _
  case ifftTw =>
    simp only [exec, execIfftTw, finish_eq_next, bind_eq_ok, pure_eq_ok] at h
    obtain ⟨_, -, rfl⟩ := h
    exact inv.writePhase _ _
  case ifftSum =>
    simp only [exec, execIfftSum, finish_eq_next, bind_eq_ok, pure_eq_ok] at h
    obtain ⟨_, -, _, -, _, -, rfl⟩ := h
    exact inv.writeY _ _
  case ifft =>
    simp only [exec, execIfft, finish_eq_next, bind_eq_ok, pure_eq_ok] at h
    obtain ⟨_, -, _, -, _, -, _, -, rfl⟩ := h
    exact (inv.withPhaseTable _).withOutputs _
  case filter =>
    simp only [exec, execFilter, finish_eq_next, bind_eq_ok, pure_eq_ok] at h
    obtain ⟨_, -, _, -, _, -, rfl⟩ := h
    exact inv.withFiltered _

/-- A step row leaves the arrays of the functions called by name, and RESET empties them (log entry 6). -/
theorem exec_stepRow_work {i : Instr} {s t : State} (hi : isFunctionRow i ≠ true) (h : exec i s = .next t) :
    t.work = s.work ∨ t.work = Workspace.empty := by
  cases i
  case reset => cases h; exact .inr rfl
  case syncH g => obtain ⟨-, rfl⟩ := (execSyncH_eq_next g s t).1 h; exact .inl rfl
  case syncT g => obtain ⟨-, rfl⟩ := (execSyncT_eq_next g s t).1 h; exact .inl rfl
  case accept st c d => obtain ⟨-, -, -, -, rfl⟩ := (execAccept_eq_next st c d s t).1 h; exact .inl rfl
  case commitOk v x => obtain ⟨-, -, -, _, -, rfl⟩ := (execCommitOk_eq_next v x s t).1 h; exact .inl rfl
  case commitBp v x => obtain ⟨-, -, -, rfl⟩ := (execCommitBp_eq_next v x s t).1 h; exact .inl (by simp)
  case dequeue => obtain ⟨-, -, -, _, -, rfl⟩ := (execDequeue_eq_next _ _).1 h; exact .inl rfl
  case process f => obtain ⟨-, -, _, _, -, -, rfl⟩ := (execProcess_eq_next f s t).1 h; exact .inl rfl
  case emitSof => obtain ⟨-, -, -, rfl⟩ := (execEmitSof_eq_next _ _).1 h; exact .inl (by simp)
  case emitData => obtain ⟨-, -, -, -, -, -, rfl⟩ := (execEmitData_eq_next _ _ _ _).1 h; exact .inl (by simp)
  case emitEof => obtain ⟨-, -, -, rfl⟩ := (execEmitEof_eq_next _ _).1 h; exact .inl (by simp)
  all_goals exact absurd rfl hi

/-- An event of the cycle level leaves the arrays of the functions called by name, and `rst_n` falling empties them. -/
theorem cycleStep_work {ev : Event} {s t : State} (h : cycleStep ev s = .next t) :
    t.work = s.work ∨ t.work = Workspace.empty := by
  cases ev with
  | clkIn v d => exact .inl (clkInEdge_side v d s t h).keepsAside.work
  | clkProc r => exact .inl (clkProcEdge_side r s t h).keepsAside.work
  | clkBoth v d r newHead newTail =>
    obtain ⟨a, b, ha, -, rfl⟩ := (clkBothEdge_eq_next _ _ _ _ _ _ _).1 h
    exact .inl (clkInEdge_side v d s a ha).keepsAside.work
  | rstN level =>
    simp only [cycleStep, resetLine] at h
    split at h
    · cases h; exact .inl rfl
    split at h
    · split at h <;> cases h
      exact .inl rfl
    · cases h; exact .inr rfl
  | _ => cases h; exact .inl rfl

theorem step_keeps_work {s t : State} (h : step s = .next t) (inv : s.work.Canonical) : t.work.Canonical := by
  have still {w w' : Workspace} (hw : w.Canonical) (h : w' = w ∨ w' = Workspace.empty) : w'.Canonical := by
    obtain rfl | rfl := h
    · exact hw
    · exact .empty
  obtain ⟨-, ⟨-, rfl⟩ | ⟨ev, rest, -, ⟨-, hc⟩ | ⟨-, ⟨-, rfl⟩ | ⟨src, w, i, -, -, he⟩⟩⟩⟩ := step_eq_next s t h
  · exact inv
  · exact still inv (cycleStep_work (s := { s with inbox := rest }) hc)
  · exact inv
  · by_cases hi : isFunctionRow i = true
    · exact exec_functionRow_work (s := { s with inbox := rest }) hi he inv
    · exact still inv (exec_stepRow_work (s := { s with inbox := rest }) hi he)

/-! ## Every step -/

/-- A reset empties every store and lays the RAM over what earlier resets left (R134 item 4, R136). -/
theorem StoresCanonical.registersReset {s : State} (h : StoresCanonical s) (line : ResetUnit) :
    StoresCanonical (s.registersReset line) :=
  (storesCanonical_iff _).2
    ⟨⟨rfl, rfl⟩, ⟨rfl, rfl, .empty⟩, memory_wf_overlay s.cfg s.ram s.ramKept h.ramKept h.ram, .empty⟩

/-- Taking an event from the inbox writes no store. -/
theorem StoresCanonical.inbox {s : State} (h : StoresCanonical s) (rest : List Event) :
    StoresCanonical { s with inbox := rest } := by
  obtain ⟨⟨ram, stage⟩, ⟨fin, fout, pipe⟩, kept, work⟩ := (storesCanonical_iff s).1 h
  exact (storesCanonical_iff _).2 ⟨⟨ram, stage⟩, ⟨fin, fout, pipe⟩, kept, work⟩

/-- Settles O47: a step resets the registers, or combines a move of each agent, and each keeps the stores it writes; a call keeps
the arrays of the functions called by name. -/
theorem storesStayCanonical : Obligations.StoresStayCanonical := by
  intro s t inv h
  obtain ⟨-, -, -, work⟩ := (storesCanonical_iff s).1 inv
  obtain ⟨hl, rfl | ⟨rest, ⟨-, l, rfl⟩ | ht⟩⟩ := step_transition s t h
  · exact inv
  · exact (inv.inbox rest).registersReset l
  · exact Transition.stores (s := { s with inbox := rest }) hl ht (inv.inbox rest) (step_keeps_work h work)

end Sys2Proof.Machine
end

section
/-! The control registers stay legal (R18, R61): every move of an agent leads from one of its legal combinations of state and index
to another. -/

namespace Sys2Proof.Machine

/-! ## The legal combinations of each agent -/

/-- PROD's state with the `stage_cnt` that fits it (R108, R109). -/
inductive ProducerControl (s : State) : Prop
  | idle (hs : s.prod.state = codeIdle) (count : s.prod.stageCnt = 0#10)
  | accum (hs : s.prod.state = codeAccum) (begun : 0 < s.prod.stageCnt.toNat) (free : s.prod.stageCnt.toNat < 512)
  | commit (hs : s.prod.state = codeCommit) (count : s.prod.stageCnt = 512#10)

/-- CONS's state with the `emit_idx` and the `out_valid` that fit it (R49, R117, R118, R120). -/
inductive ConsumerControl (s : State) : Prop
  | resting (hs : s.cons.state = codeWaiting ∨ s.cons.state = codeProcessing) (idx : s.cons.emitIdx = 0#10)
      (valid : s.cons.outValid = false)
  | emitting (hs : s.cons.state = codeEmitting) (idx : s.cons.emitIdx.toNat ≤ 513) (valid : s.cons.outValid = true)

theorem prodState_cases {c : BitVec 2} (h : c ≠ codeUnused) : c = codeIdle ∨ c = codeAccum ∨ c = codeCommit := by
  revert c; decide

theorem controlInv_iff (s : State) : ControlInv s ↔ ProducerControl s ∧ ConsumerControl s := by
  constructor
  · rintro ⟨prodCode, consCode, idleCount, accumCount, commitCount, emitRange, emitRest, offered⟩
    have rest {c : BitVec 2} (hs : s.cons.state = c) (hc : c ≠ codeEmitting) :
        s.cons.emitIdx = 0#10 ∧ s.cons.outValid = false := by
      refine ⟨emitRest (hs ▸ hc), ?_⟩
      rw [← Bool.not_eq_true, offered, hs]
      exact hc
    constructor
    · obtain hs | hs | hs := prodState_cases prodCode
      · exact .idle hs (idleCount hs)
      · exact .accum hs (accumCount hs).1 (accumCount hs).2
      · exact .commit hs (commitCount hs)
    · obtain hs | hs | hs := consState_cases consCode
      · exact .resting (.inl hs) (rest hs (by decide)).1 (rest hs (by decide)).2
      · exact .resting (.inr hs) (rest hs (by decide)).1 (rest hs (by decide)).2
      · exact .emitting hs emitRange (offered.2 hs)
  · rintro ⟨hp, hc⟩
    constructor
    case prodCode | idleCount | accumCount | commitCount =>
      cases hp <;> simp_all [codeIdle, codeAccum, codeCommit, codeUnused]
    all_goals
      cases hc with
      | resting hs idx valid =>
        obtain hs | hs := hs <;> simp [hs, idx, valid, codeWaiting, codeProcessing, codeEmitting, codeUnused]
      | emitting hs idx valid => simp [hs, idx, valid, codeEmitting, codeUnused]

theorem ProducerControl.congr {s t : State} (h : ProducerControl s) (state : t.prod.state = s.prod.state)
    (count : t.prod.stageCnt = s.prod.stageCnt) : ProducerControl t := by
  cases h with
  | idle hs hc => exact .idle (state.trans hs) (count.trans hc)
  | accum hs begun free => exact .accum (state.trans hs) (count ▸ begun) (count ▸ free)
  | commit hs hc => exact .commit (state.trans hs) (count.trans hc)

theorem ConsumerControl.congr {s t : State} (h : ConsumerControl s) (state : t.cons.state = s.cons.state)
    (idx : t.cons.emitIdx = s.cons.emitIdx) (valid : t.cons.outValid = s.cons.outValid) : ConsumerControl t := by
  cases h with
  | resting hs hi hv => exact .resting (state ▸ hs) (idx.trans hi) (valid.trans hv)
  | emitting hs hi hv => exact .emitting (state.trans hs) (idx ▸ hi) (valid.trans hv)

/-! ## PROD -/

/-- The count after an accepted byte is that of ACCUM, or 512 and COMMIT is entered (R108). -/
theorem ProducerControl.accepted {s : State} (d : Byte) (free : s.prod.stageCnt.toNat < 512) :
    ProducerControl (s.accepted d) := by
  have next : (s.prod.stageCnt + 1#10).toNat = s.prod.stageCnt.toNat + 1 := by bv_omega
  by_cases full : s.prod.stageCnt + 1#10 = 512#10
  · exact .commit (by simp [full]) (by simp [full])
  · refine .accum (by simp [full]) (by simp [next]) ?_
    have : (s.prod.stageCnt + 1#10).toNat ≠ 512 := fun h => full (BitVec.eq_of_toNat_eq h)
    rw [State.accepted_prod_stageCnt]
    omega

theorem ProducerMove.control {s a : State} (m : ProducerMove s a) (h : ProducerControl s) : ProducerControl a := by
  cases m with
  | stays => exact h
  | accepts d _ free => exact .accepted d free
  | commits | publishes => exact .idle rfl rfl
  | waitsForRoom => exact h.congr (by simp) (by simp)
  | checks => unfold State.checkEdge; (repeat' split) <;> exact h.congr (by simp) (by simp)
  | pauses => unfold State.waitEdge; split <;> exact h.congr rfl rfl
  | copies => exact h.congr rfl rfl

/-! ## CONS -/

namespace ConsumerControl

variable {s : State}

theorem of_waiting (h : ConsumerControl s) (hs : s.cons.state = codeWaiting) :
    s.cons.emitIdx = 0#10 ∧ s.cons.outValid = false := by
  cases h with
  | resting _ idx valid => exact ⟨idx, valid⟩
  | emitting he => exact absurd (hs.symm.trans he) (by decide)

theorem of_emitting (h : ConsumerControl s) (hs : s.cons.state = codeEmitting) :
    s.cons.emitIdx.toNat ≤ 513 ∧ s.cons.outValid = true := by
  cases h with
  | resting he => obtain he | he := he <;> exact absurd (hs.symm.trans he) (by decide)
  | emitting _ idx valid => exact ⟨idx, valid⟩

/-- PROCESSING ends with the first byte offered (R117, R120). -/
theorem processPublished (s : State) : ConsumerControl s.processPublished := .emitting rfl (by simp) rfl

end ConsumerControl

/-- Before the last byte the next index is in range (R118). -/
theorem emitIdx_succ_le {e : BitVec 10} (range : e.toNat ≤ 513) (more : e ≠ 513#10) : (e + 1#10).toNat ≤ 513 := by
  bv_omega

theorem pipeOp_control {s t : State} (h : pipeOp s = .ok t) (inv : ConsumerControl s) : ConsumerControl t := by
  by_cases ph : s.pipe.phase = .narrow
  · obtain ⟨y, v, -, -, rfl⟩ := (pipeOp_narrow s t ph).1 h
    dsimp only
    split
    · exact inv.congr (by simp) (by simp) (by simp)
    · exact .processPublished _
  · have same := pipeOp_cons h ph
    exact inv.congr (by rw [same]) (by rw [same]) (by rw [same])

theorem ConsumerMove.control {s b : State} (m : ConsumerMove s b) (h : ConsumerControl s) : ConsumerControl b := by
  cases m with
  | stays => exact h
  | dequeues frame hs =>
    obtain ⟨idx, valid⟩ := h.of_waiting hs
    exact .resting (.inr rfl) idx valid
  | readsLast x hs =>
    obtain ⟨idx, valid⟩ := h.of_waiting hs
    exact .resting (.inr rfl) idx valid
  | processes => exact .processPublished _
  | emits x hs =>
    obtain ⟨idx, -⟩ := h.of_emitting hs
    by_cases last : s.cons.emitIdx = 513#10
    · exact .resting (.inl (by simp [last])) (by simp [last]) (by simp [last])
    · exact .emitting (by simp [last, hs]) (by simpa [last] using emitIdx_succ_le idx last) (by simp [last])
  | runs n u hs hu =>
    have ran : ConsumerControl u :=
      pipeOps_keeps (fun _ _ _ => pipeOp_control) n hu (h.congr rfl rfl rfl)
    exact ran.congr rfl rfl rfl
  | sends x hs more =>
    obtain ⟨idx, valid⟩ := h.of_emitting hs
    exact .emitting hs (emitIdx_succ_le idx more) valid
  | sendsLast => exact .resting (.inl rfl) rfl rfl
  | stalls | starts | reads => exact h.congr rfl rfl rfl

/-! ## Every step -/

theorem Combines.control {s a b t : State} (c : Combines s a b t) (hp : ProducerControl a) (hc : ConsumerControl b) :
    ControlInv t :=
  (controlInv_iff t).2 ⟨hp.congr (by rw [c.prod]) (by rw [c.prod]),
    hc.congr (by rw [c.cons]) (by rw [c.cons]) (by rw [c.cons])⟩

theorem controlInv_registersReset (s : State) (line : ResetUnit) : ControlInv (s.registersReset line) :=
  (controlInv_iff _).2 ⟨.idle rfl rfl, .resting (.inl rfl) rfl rfl⟩

/-- Settles O49: a step resets the registers, or combines a move of each agent, and each keeps its own control registers legal. -/
theorem controlRegistersStayLegal : Obligations.ControlRegistersStayLegal := by
  intro s t inv h
  obtain ⟨-, rfl | ⟨rest, ⟨-, l, rfl⟩ | ht⟩⟩ := step_transition s t h
  · exact inv
  · exact controlInv_registersReset _ l
  · obtain ⟨hp, hc⟩ := (controlInv_iff s).1 inv
    obtain ⟨a, b, ma, mb, c⟩ := ht.combines
    exact c.control (ma.control (hp.congr rfl rfl)) (mb.control (hc.congr rfl rfl rfl))

end Sys2Proof.Machine
end

section
/-! What function rows leave unchanged (R16, R58), the pointer differences and the status ports (R27, R101, R102), and the state
that RESET leaves (R134 to R136). -/

namespace Sys2Proof.Machine

/-- Settles O7: a function row that answers changes `State.work` and the returned value only. -/
theorem functionRowsChangeNoTransactionState : Obligations.FunctionRowsChangeNoTransactionState := by
  intro i s t hi h
  obtain ⟨w, r, rfl⟩ := exec_functionRow i s t hi h
  exact ⟨rfl, fun a => rfl⟩

/-! ## Pointer differences -/

/-- `ptrDiff` is the difference of the integers, mod F. -/
theorem ptrDiff_cast {F : Nat} (hF : 0 < F) (a b : Nat) : (ptrDiff F a b : Int) = ((a : Int) - b) % F := by
  have hb := (Nat.mod_lt b hF).le
  have split : (a : Int) + (F - b % F) = (a - b) + F * (b / F + 1) := by
    have := Int.mul_ediv_add_emod b F
    linarith
  rw [ptrDiff]
  push_cast [hb]
  rw [split, Int.add_mul_emod_self_left]

theorem ptrDiff_lt {F : Nat} (hF : 0 < F) (a b : Nat) : ptrDiff F a b < F := Nat.mod_lt _ hF

theorem framesReady_cast {s : State} (hl : s.cfg.legal = true) :
    (s.framesReady : Int) = ((s.hv : Int) - s.cons.tf) % s.slots :=
  ptrDiff_cast (Nat.zero_lt_two.trans_le (legal_slots hl).1) s.hv s.cons.tf

theorem canCommit_iff_cast {s : State} (hl : s.cfg.legal = true) :
    s.canCommit = true ↔ ((s.prod.hf : Int) - s.tv) % s.slots ≤ s.slots - 2 := by
  have slots : 2 ≤ s.slots := (legal_slots hl).1
  rw [← ptrDiff_cast (by omega) s.prod.hf s.tv, State.canCommit_eq, decide_eq_true_iff]
  omega

/-- In the ring the pointer-wide ports fit FPTR_W bits (R27). -/
theorem RingInv.ports_fit {s : State} (hl : s.cfg.legal = true) (h : RingInv s) :
    s.prod.hf < 2 ^ s.cfg.fptrW ∧ s.cons.tf < 2 ^ s.cfg.fptrW ∧ s.framesReady < 2 ^ s.cfg.fptrW := by
  obtain ⟨H, T, hs, ts, counts⟩ := h
  obtain ⟨w, -, hslots, hw, -, -⟩ := legal_ring hl
  have width : 2 ^ s.cfg.fptrW = s.slots := by rw [hw, State.slots, hslots]
  have pos : 0 < s.slots := width ▸ Nat.two_pow_pos _
  rw [width, counts.head, counts.tail]
  exact ⟨Nat.mod_lt _ pos, Nat.mod_lt _ pos, ptrDiff_lt pos _ _⟩

/-- Where the control registers are legal, `stage_cnt` is at most 512 (R19). -/
theorem ProducerControl.stageCnt_le {s : State} (h : ProducerControl s) : s.prod.stageCnt.toNat ≤ 512 := by
  cases h with
  | idle _ count | commit _ count => simp [count]
  | accum _ _ free => exact free.le

/-! ## The views after a reset -/

/-- A chain of cleared flops shows the pointer 0. -/
theorem grayInv_cleared (w n : Nat) : grayInv w (lastFlop (List.replicate n 0)) = 0 := by
  have last : lastFlop (List.replicate n 0) = grayOf 0 := by
    cases n with
    | zero => rfl
    | succ n => rw [lastFlop, List.getLastD_eq_getLast?, List.getLast?_replicate]; rfl
  rw [last, grayInv_grayOf (Nat.two_pow_pos w)]

theorem ptrDiff_zero (F : Nat) : ptrDiff F 0 0 = 0 := by simp [ptrDiff]

/-- Every register and view at its reset value leaves the ring empty (R135). -/
theorem views_of_reset {s : State} (hp : s.prod = Producer.reset s.cfg) (hc : s.cons = Consumer.reset s.cfg) :
    s.hv = 0 ∧ s.tv = 0 ∧ s.framesReady = 0 := by
  have hv : s.hv = 0 := by rw [State.hv, hc]; exact grayInv_cleared ..
  have tv : s.tv = 0 := by rw [State.tv, hp]; exact grayInv_cleared ..
  refine ⟨hv, tv, ?_⟩
  rw [State.framesReady, hv, hc]
  exact ptrDiff_zero _

/-- Settles O34: `ptrDiff` is a difference of integers, and every port is the register or the quantity it names. -/
theorem readinessAndRoomArePointerDifferences : Obligations.ReadinessAndRoomArePointerDifferences := by
  refine ⟨fun s hl => ⟨framesReady_cast hl, canCommit_iff_cast hl, framesReady_cast hl, RingInv.ports_fit hl⟩, fun s => ?_,
    fun p _ => ?_⟩
  · refine ⟨rfl, rfl, rfl, rfl, rfl, rfl, rfl, fun inv => ⟨inv.prodCode, inv.consCode, ?_⟩⟩
    obtain ⟨hp, -⟩ := (controlInv_iff s).1 inv
    exact hp.stageCnt_le
  · obtain ⟨-, -, ready⟩ := views_of_reset (s := State.resetOf p) rfl rfl
    exact ⟨rfl, rfl, rfl, rfl, rfl, ready, rfl⟩

/-! ## RESET -/

/-- RESET leaves the contents of the RAM, in the cells it keeps (R134 item 4, R136). -/
theorem registersReset_ramContents {s : State} (h : rising s.ram = true) (line : ResetUnit) (a : Nat) :
    (s.registersReset line).ramContents a = s.ramContents a := readCell_overlay s.ram s.ramKept a h

/-- Settles O41: RESET is `registersReset`, spelled out register by register. -/
theorem resetRestoresEveryRegister : Obligations.ResetRestoresEveryRegister := by
  intro s
  refine ⟨_, rfl, rfl, fun h => registersReset_ramContents h _, fun hl => ?_⟩
  have slots := (legal_slots hl).1
  obtain ⟨hv, tv, ready⟩ := views_of_reset (s := s.registersReset (ResetUnit.released s.cfg)) rfl rfl
  refine ⟨hv, tv, ready, ?_⟩
  rw [State.canCommit_eq, tv, decide_eq_true_iff]
  change ptrDiff s.cfg.slots 0 0 + 2 ≤ s.cfg.slots
  rw [ptrDiff_zero]
  omega

end Sys2Proof.Machine
end

section
/-! The conditions that the rules prove unreachable, and the fault of each (R123). -/

namespace Sys2Proof.Machine

/-! ## Reads of what no rule has written -/

theorem readElem_unwritten {α : Type} {st : Store α} {i : Nat} (h : readCell st i = none) :
    readElem st i = .error .unwrittenRead := by rw [readElem, h]

theorem readElem_error {α : Type} {st : Store α} {i : Nat} {f : Fault} (h : readElem st i = .error f) :
    f = .unwrittenRead := by
  unfold readElem at h
  split at h <;> cases h
  rfl

theorem readRun_eq_mapChecked {α : Type} (st : Store α) (base n : Nat) :
    readRun st base n = mapChecked (readElem st) (List.range' base n) := by
  induction n generalizing base with
  | zero => rfl
  | succ n ih => simp only [readRun, ih, List.range'_succ, mapChecked]

theorem slotReadFrom_eq_mapChecked (p : Params) (m : List Host.Cell) (slot i n : Nat) :
    slotReadFrom p m slot i n = mapChecked (fun k => readElem m (ramAddr p slot k)) (List.range' i n) := by
  induction n generalizing i with
  | zero => rfl
  | succ n ih => simp only [slotReadFrom, ih, List.range'_succ, mapChecked, ramRead]

/-- Where only one fault can occur and some element meets it, it is the answer. -/
theorem mapChecked_fault {α β : Type} {f : α → Except Fault β} {e : Fault} (only : ∀ a e', f a = .error e' → e' = e)
    {l : List α} (met : ∃ a ∈ l, f a = .error e) : mapChecked f l = .error e := by
  induction l with
  | nil => obtain ⟨a, ha, -⟩ := met; cases ha
  | cons a t ih =>
    rw [mapChecked]
    cases ha : f a with
    | error e' => rw [only a e' ha]; rfl
    | ok b =>
      obtain ⟨c, hc, hf⟩ := met
      obtain rfl | hc := List.mem_cons.1 hc
      · rw [ha] at hf; cases hf
      · rw [ih ⟨c, hc, hf⟩]; rfl

theorem readRun_unwritten {α : Type} {st : Store α} {n : Nat} (h : ∃ i, i < n ∧ readCell st i = none) :
    readRun st 0 n = .error .unwrittenRead := by
  obtain ⟨i, hi, hr⟩ := h
  rw [readRun_eq_mapChecked]
  exact mapChecked_fault (fun _ _ => readElem_error) ⟨i, by simpa using hi, readElem_unwritten hr⟩

theorem tailFrameBytes_unwritten {s : State} (h : ∃ i, i < 512 ∧ readCell s.ram (ramAddr s.cfg s.cons.tf i) = none) :
    s.tailFrameBytes = .error .unwrittenRead := by
  obtain ⟨i, hi, hr⟩ := h
  rw [State.tailFrameBytes, slotReadFrom_eq_mapChecked]
  exact mapChecked_fault (fun _ _ => readElem_error) ⟨i, by simpa using hi, readElem_unwritten hr⟩

theorem finSamples_unwritten {s : State} (h : ∃ i, i < 512 ∧ readCell s.cons.fin i = none) :
    s.finSamples = .error .unwrittenRead := by
  rw [State.finSamples, readRun_unwritten h]; rfl

theorem outByte_unwritten {s : State} {e : Nat} (h1 : 1 ≤ e) (h512 : e ≤ 512)
    (h : readCell s.cons.fout ((e - 1) / 2) = none) : s.outByte e = .error .unwrittenRead := by
  rw [State.outByte, if_neg (by omega), if_neg (by omega), if_neg (by omega), readElem_unwritten h]; rfl

/-! ## What a row does once its agent takes it -/

theorem execAccept_of_ready {st : BitVec 1} (c : BitVec 1) (d : Byte) {s : State} (ready : s.inReady = true)
    (hs : s.prod.state = st.setWidth 2) :
    execAccept st c d s = if 512#10 ≤ s.prod.stageCnt then .fault .stageOverflow else .next (s.accepted d) := by
  have code := (inReady_state s ready).1
  rw [hs] at code
  simp [execAccept, ready, hs, code]

theorem execCommitOk_of_commit (v : BitVec 1) (x : Byte) {s : State} (out : s.prodOutOfReset = true)
    (hs : s.prod.state = codeCommit) :
    execCommitOk v x s = if !s.canCommit then .fault .ringOverrun
      else finish do return s.committed (← readRun s.prod.stage 0 512) := by
  rw [execCommitOk, if_neg (by rw [hs]; decide), if_neg (by simp [out, hs])]

theorem execDequeue_of_waiting {s : State} (out : s.consOutOfReset = true) (hs : s.cons.state = codeWaiting) :
    execDequeue s = if s.framesReady = 0 then .fault .ringOverrun
      else finish do return s.dequeued (← s.tailFrameBytes) := by
  rw [execDequeue, if_neg (by rw [hs]; decide), if_neg (by simp [out, hs])]

theorem execProcess_of_processing (f : BitVec 1) {s : State} (out : s.consOutOfReset = true)
    (hs : s.cons.state = codeProcessing) :
    execProcess f s = finish do return s.processed (← filterFrame s.cfg.kMin s.cfg.kMax (← s.finSamples)) := by
  rw [execProcess, if_neg (by rw [hs]; decide), if_neg (by simp [out, hs])]

theorem emitGuarded_badState {s : State} (hs : s.cons.state = codeUnused) (enabled : Bool) (m : Result) :
    emitGuarded s enabled m = .fault .badStateCode := by rw [emitGuarded, if_pos hs]

theorem emitGuarded_of_emitting {s : State} (out : s.consOutOfReset = true) (hs : s.cons.state = codeEmitting)
    (enabled : Bool) (m : Result) :
    emitGuarded s enabled m = if 513#10 < s.cons.emitIdx then .fault .emitOverflow
      else if enabled then m else .refused .notEnabled := by
  rw [emitGuarded, if_neg (by rw [hs]; decide), if_neg (by simp [out, hs])]

theorem emitGuarded_overflow {s : State} (out : s.consOutOfReset = true) (hs : s.cons.state = codeEmitting)
    (above : 513 < s.cons.emitIdx.toNat) (enabled : Bool) (m : Result) :
    emitGuarded s enabled m = .fault .emitOverflow := by
  rw [emitGuarded_of_emitting out hs, if_pos (by simpa [BitVec.lt_def] using above)]

/-- EMIT_DATA of an index whose sample FOUT does not hold (R24). -/
theorem execEmitData_unwritten {e : BitVec 10} (d : Byte) {s : State} (out : s.consOutOfReset = true)
    (hs : s.cons.state = codeEmitting) (he : s.cons.emitIdx = e) (h1 : 1 ≤ e.toNat) (h512 : e.toNat ≤ 512)
    (h : readCell s.cons.fout ((e.toNat - 1) / 2) = none) : execEmitData e d s = .fault .unwrittenRead := by
  have range : ¬ 513#10 < s.cons.emitIdx := by rw [he]; simp only [BitVec.lt_def, BitVec.toNat_ofNat]; omega
  have enabled : (s.cons.emitIdx == e && 1#10 ≤ e && e ≤ 512#10) = true := by simp [he, BitVec.le_def, h1, h512]
  rw [execEmitData, emitGuarded_of_emitting out hs, if_neg range, if_pos enabled, outByte_unwritten h1 h512 h]

/-- Settles O43: each clause is the branch of its row that the hypotheses select. -/
theorem unreachableConditionsFault : Obligations.UnreachableConditionsFault := by
  intro st c b e d s
  refine ⟨fun hs => ⟨if_pos hs, if_pos hs, if_pos hs⟩,
    fun hs => ⟨if_pos hs, if_pos hs, emitGuarded_badState hs _ _, emitGuarded_badState hs _ _, emitGuarded_badState hs _ _⟩,
    fun ready hs full => ?_,
    fun out hs above => ⟨emitGuarded_overflow out hs above _ _, emitGuarded_overflow out hs above _ _,
      emitGuarded_overflow out hs above _ _⟩,
    fun out hs full => ?_, fun out hs empty => ?_, fun k empty => if_pos empty, fun out hs room unwritten => ?_,
    fun out hs ready unwritten => ?_, fun out hs unwritten => ?_,
    fun out hs he h1 h512 unwritten => execEmitData_unwritten d out hs he h1 h512 unwritten⟩
  · rw [exec, execAccept_of_ready c d ready hs, if_pos (by simpa [BitVec.le_def] using full)]
  · rw [exec, execCommitOk_of_commit b d out hs, full]; rfl
  · rw [exec, execDequeue_of_waiting out hs, if_pos empty]
  · rw [exec, execCommitOk_of_commit b d out hs, room, readRun_unwritten unwritten]; rfl
  · rw [exec, execDequeue_of_waiting out hs, if_neg (by omega), tailFrameBytes_unwritten unwritten]; rfl
  · rw [exec, execProcess_of_processing b out hs, finSamples_unwritten unwritten]; rfl

end Sys2Proof.Machine
end

section
/-! Each clock moves its own domain (R15, R99, R126 item 3): the three cases of an edge, and what it leaves to the other clock. -/

namespace Sys2Proof.Machine

/-! ## The cases of an edge -/

/-- A `clk_in` edge while `rst_n` is 0, while the domain leaves reset, and out of reset (R99, R134). -/
theorem clkInEdge_eq_next (v : Bool) (d : Byte) (s t : State) :
    clkInEdge v d s = .next t ↔
      (s.rst.rstN = false ∧ { s with rst := { s.rst with lowIn := s.rst.lowIn + 1 } } = t) ∨
      (s.rst.rstN = true ∧ s.prodOutOfReset = false ∧
        { s with rst := { s.rst with inSync := shiftIn true s.rst.inSync } } = t) ∨
      (s.prodOutOfReset = true ∧ ∃ a, s.prodEdge v d = .ok a ∧ a.prodSynced s = t) := by
  unfold clkInEdge
  cases line : s.rst.rstN with
  | false => simp [State.prodOutOfReset, line]
  | true => cases out : s.prodOutOfReset <;> simp [map_eq_ok]

/-- A `clk_proc` edge while `rst_n` is 0, while the domain leaves reset, and out of reset (R99, R134). -/
theorem clkProcEdge_eq_next (r : Bool) (s t : State) :
    clkProcEdge r s = .next t ↔
      (s.rst.rstN = false ∧ { s with rst := { s.rst with lowProc := s.rst.lowProc + 1 } } = t) ∨
      (s.rst.rstN = true ∧ s.consOutOfReset = false ∧
        { s with rst := { s.rst with procSync := shiftIn true s.rst.procSync } } = t) ∨
      (s.consOutOfReset = true ∧ ∃ b, s.consEdge r = .ok b ∧ b.consSynced s = t) := by
  unfold clkProcEdge
  cases line : s.rst.rstN with
  | false => simp [State.consOutOfReset, line]
  | true => cases out : s.consOutOfReset <;> simp [map_eq_ok]

/-! ## The domain of each clock -/

/-- What a `clk_in` edge leaves to CONS, and what it does to the registers of the crossing in its own domain. -/
structure MovesProducerDomain (s t : State) : Prop where
  cons : t.cons = s.cons
  pipe : t.pipe = s.pipe
  emitted : t.emitted = s.emitted
  procSync : t.rst.procSync = s.rst.procSync
  samples : s.prodOutOfReset = true → t.prod.hfGray = grayOf s.prod.hf ∧
    (s.prod.tfSync ≠ [] → t.prod.tfSync = s.cons.tfGray :: s.prod.tfSync.dropLast)
  held : s.prodOutOfReset = false → t.prod = s.prod

/-- What a `clk_proc` edge leaves to PROD and the ring, and what it does to the registers of the crossing in its own domain. -/
structure MovesConsumerDomain (s t : State) : Prop where
  prod : t.prod = s.prod
  ram : t.ram = s.ram
  ramKept : t.ramKept = s.ramKept
  inLog : t.inLog = s.inLog
  inSync : t.rst.inSync = s.rst.inSync
  samples : s.consOutOfReset = true → t.cons.tfGray = grayOf s.cons.tf ∧
    (s.cons.hfSync ≠ [] → t.cons.hfSync = s.prod.hfGray :: s.cons.hfSync.dropLast)
  held : s.consOutOfReset = false → t.cons = s.cons ∧ t.pipe = s.pipe

theorem clkInEdge_moves {v : Bool} {d : Byte} {s t : State} (h : clkInEdge v d s = .next t) : MovesProducerDomain s t := by
  obtain ⟨line, rfl⟩ | ⟨-, out, rfl⟩ | ⟨out, a, ha, rfl⟩ := (clkInEdge_eq_next v d s t).1 h
  · have out : s.prodOutOfReset = false := by simp [State.prodOutOfReset, line]
    exact ⟨rfl, rfl, rfl, rfl, by simp [out], fun _ => rfl⟩
  · exact ⟨rfl, rfl, rfl, rfl, by simp [out], fun _ => rfl⟩
  · obtain ⟨-, cons, pipe, rst, emitted, -⟩ := (prodEdge_move s a v d ha).frame
    exact ⟨cons, pipe, emitted, congrArg ResetUnit.procSync rst, fun _ => ⟨rfl, shiftIn_eq _ _⟩, by simp [out]⟩

theorem clkProcEdge_moves {r : Bool} {s t : State} (h : clkProcEdge r s = .next t) : MovesConsumerDomain s t := by
  obtain ⟨line, rfl⟩ | ⟨-, out, rfl⟩ | ⟨out, b, hb, rfl⟩ := (clkProcEdge_eq_next r s t).1 h
  · have out : s.consOutOfReset = false := by simp [State.consOutOfReset, line]
    exact ⟨rfl, rfl, rfl, rfl, rfl, by simp [out], fun _ => ⟨rfl, rfl⟩⟩
  · exact ⟨rfl, rfl, rfl, rfl, rfl, by simp [out], fun _ => ⟨rfl, rfl⟩⟩
  · have m := consEdge_move s b r hb
    obtain ⟨-, prod, ram, rst, inLog, -⟩ := m.frame
    exact ⟨prod, ram, m.keepsAside.ramKept, inLog, congrArg ResetUnit.inSync rst, fun _ => ⟨rfl, shiftIn_eq _ _⟩,
      by simp [out]⟩

/-! ## Edges that coincide -/

/-- The sampling flop resolves to the old code or to the new one (R99). -/
theorem resolved_chain {sync chain : List Nat} {old new : Nat} {tail : List Nat} (choose : Bool) (hc : chain = old :: tail)
    (hs : sync = if choose then resolvedNew new chain else chain) : sync = (if choose then new else old) :: tail := by
  rw [hs, hc]; cases choose <;> rfl

section

variable {s a b : State} (newHead newTail : Bool)

/-- PROD's chain after coinciding edges. -/
theorem joined_tfSync (ha : MovesProducerDomain s a) :
    (s.prodOutOfReset = true → s.prod.tfSync ≠ [] → (s.joined a b newHead newTail).prod.tfSync =
      (if newTail then b.cons.tfGray else s.cons.tfGray) :: s.prod.tfSync.dropLast) ∧
    (s.prodOutOfReset = false → (s.joined a b newHead newTail).prod.tfSync = s.prod.tfSync) := by
  constructor
  · intro out hne
    exact resolved_chain newTail ((ha.samples out).2 hne) (by simp [State.joined, out])
  · intro held
    simp [State.joined, held, ha.held held]

/-- CONS's chain after coinciding edges. -/
theorem joined_hfSync (hb : MovesConsumerDomain s b) :
    (s.consOutOfReset = true → s.cons.hfSync ≠ [] → (s.joined a b newHead newTail).cons.hfSync =
      (if newHead then a.prod.hfGray else s.prod.hfGray) :: s.cons.hfSync.dropLast) ∧
    (s.consOutOfReset = false → (s.joined a b newHead newTail).cons.hfSync = s.cons.hfSync) := by
  constructor
  · intro out hne
    exact resolved_chain newHead ((hb.samples out).2 hne) (by simp [State.joined, out])
  · intro held
    simp [State.joined, held, (hb.held held).1]

end

/-! ## The steps -/

/-- A step that answers to a cycle-level event is its edge, on legal parameters. -/
theorem step_cycle {s t : State} {ev : Event} {rest : List Event} (hi : s.inbox = ev :: rest) (hc : ev.isCycle = true)
    (h : step s = .next t) : s.cfg.legal = true ∧ cycleStep ev { s with inbox := rest } = .next t := by
  cases hl : s.cfg.legal with
  | false => rw [step_illegal s hl] at h; cases h
  | true => exact ⟨rfl, by simpa [step_event s ev rest hl hi, runEvent, hc] using h⟩

/-- Settles O57: the two domains are those of the two edges, and coinciding edges join them. -/
theorem eachClockMovesItsOwnDomain : Obligations.EachClockMovesItsOwnDomain := by
  refine ⟨fun s t v d rest hi h => ?_, fun s t r rest hi h => ?_,
    fun s a b v d r newHead newTail rest ha hb => ?_⟩
  · obtain ⟨-, edge⟩ := step_cycle hi rfl h
    obtain ⟨cons, pipe, emitted, procSync, samples, held⟩ := clkInEdge_moves edge
    exact ⟨cons, pipe, emitted, procSync, samples, held⟩
  · obtain ⟨-, edge⟩ := step_cycle hi rfl h
    obtain ⟨prod, ram, ramKept, inLog, inSync, samples, held⟩ := clkProcEdge_moves edge
    exact ⟨prod, ram, ramKept, inLog, inSync, samples, held⟩
  · obtain ⟨hl, aEdge⟩ := step_cycle (s := { s with inbox := _ }) rfl rfl ha
    obtain ⟨-, bEdge⟩ := step_cycle (s := { s with inbox := _ }) rfl rfl hb
    obtain ⟨tailOut, tailHeld⟩ := joined_tfSync (b := b) newHead newTail (clkInEdge_moves aEdge)
    obtain ⟨headOut, headHeld⟩ := joined_hfSync (a := a) newHead newTail (clkProcEdge_moves bEdge)
    refine ⟨({ s with inbox := rest } : State).joined a b newHead newTail, ?_, rfl, tailOut, headOut, tailHeld, headHeld⟩
    rw [step_event { s with inbox := .clkBoth v d r newHead newTail :: rest } _ rest hl rfl]
    exact (clkBothEdge_eq_next v d r newHead newTail _ _).2 ⟨a, b, aEdge, bEdge, rfl⟩

end Sys2Proof.Machine
end

section
/-! Frames in the ring: what UNPACK reads from the slot of `tf` (R91), and what a commit writes to the slot of `hf` (R31, R109). -/

namespace Sys2Proof.Machine

/-! ## UNPACK -/

/-- R91: the value of the Sample that a byte pair forms. -/
theorem sampleOf_toInt (lo hi : Byte) :
    (sampleOf lo hi).toInt = (lo.toNat : Int) + 256 * hi.toNat - 65536 * (if hi.getLsbD 7 then 1 else 0) := by
  have value : (sampleOf lo hi).toNat = 256 * hi.toNat + lo.toNat := by
    rw [sampleOf, BitVec.toNat_append, ← Nat.shiftLeft_add_eq_or_of_lt lo.isLt, Nat.shiftLeft_eq, Nat.mul_comm]
  have sign : (sampleOf lo hi).msb = hi.getLsbD 7 := by
    rw [sampleOf, BitVec.msb_append]; exact BitVec.msb_eq_getLsbD_last hi
  rw [BitVec.toInt_eq_msb_cond, sign, value]
  split <;> push_cast <;> omega

/-- Sample k of a frame is formed by its bytes 2k and 2k + 1 (R91). -/
theorem unpackBytes_sample {b : List Byte} {k : Nat} (hk : 2 * k + 1 < b.length) :
    (unpackBytes b)[k]? = some (sampleOf b[2 * k] b[2 * k + 1]) := by
  rw [unpackBytes_getElem?, List.getElem?_eq_getElem hk, List.getElem?_eq_getElem (by omega)]; rfl

theorem framesReady_of_hv_eq_tf {s : State} (hl : s.cfg.legal = true) (h : s.hv = s.cons.tf) : s.framesReady = 0 := by
  obtain ⟨two, -⟩ := legal_slots hl
  have diff := ptrDiff_cast (show 0 < s.slots by exact Nat.zero_lt_two.trans_le two) s.hv s.cons.tf
  rw [h, Int.sub_self, Int.zero_emod] at diff
  rw [State.framesReady, h]; exact_mod_cast diff

/-- Settles O25: the slot's frame has 512 bytes, so every sample of it is there; with `hv` = `tf` no frame is ready. -/
theorem unpackReadsTheTailSlot : Obligations.UnpackReadsTheTailSlot := by
  intro k s
  refine ⟨fun b ready hb => ?_, fun hl _ empty => if_pos (framesReady_of_hv_eq_tf hl empty)⟩
  have len : b.length = 512 := ((slotReadFrom_eq_ok _ _ _ _ _ b).1 hb).1
  have hk : 2 * k.toNat + 1 < b.length := by have := k.isLt; omega
  exact ⟨_, _, _, List.getElem?_eq_getElem (by omega), List.getElem?_eq_getElem hk, sampleOf_toInt _ _,
    (execUnpack_eq_next k s _).2 ⟨by omega, b, _, hb, (elemOf_eq_ok _ _ _).2 (unpackBytes_sample hk), rfl⟩⟩

/-! ## COMMIT_OK -/

/-- After a commit the slot of `hf` holds the frame (R31, R109). -/
theorem committed_slot {s : State} {frame : List Byte} (hl : s.cfg.legal = true) (len : frame.length = 512) {i : Nat}
    (hi : i < 512) : readCell (s.committed frame).ram (ramAddr s.cfg s.prod.hf i) = frame[i]? := by
  obtain ⟨two, cap⟩ := legal_slots hl
  have apart (a b : Nat) (ha : a < frame.length) (hb : b < frame.length)
      (h : ramAddr s.cfg s.prod.hf (0 + a) = ramAddr s.cfg s.prod.hf (0 + b)) : a = b := by
    rw [Nat.zero_add, Nat.zero_add] at h
    exact ramAddr_injective s.cfg s.prod.hf a b (by omega) (by omega) (by omega) h
  have same := readCell_slotWriteFrom_same s.cfg frame s.ram s.prod.hf 0 i (by omega) apart
  rwa [Nat.zero_add] at same

/-- A commit leaves every address outside the slot of `hf` as it was (R109). -/
theorem committed_ramContents_other {s : State} {frame : List Byte} (len : frame.length = 512) {a : Nat}
    (ha : ∀ i, i < 512 → a ≠ ramAddr s.cfg s.prod.hf i) : (s.committed frame).ramContents a = s.ramContents a := by
  have other := readCell_slotWriteFrom_other s.cfg frame s.ram s.prod.hf 0 a fun k hk e =>
    ha k (by omega) (by rw [← e, Nat.zero_add])
  simp only [State.ramContents, State.committed_ram, State.committed_ramKept, other]

/-- Settles O36: the row answers with `State.committed`. -/
theorem commitPublishesTheStagedFrame : Obligations.CommitPublishesTheStagedFrame := by
  intro v x s frame hl out hs room staged
  have len : frame.length = 512 := ((readRun_eq_ok _ _ _ _).1 staged).1
  exact ⟨s.committed frame, (execCommitOk_eq_next v x s _).2 ⟨out, hs, room, frame, staged, rfl⟩,
    fun i hi => committed_slot hl len hi, fun a ha => committed_ramContents_other len ha, rfl, rfl⟩

end Sys2Proof.Machine
end

section
/-! Runs of `clk_in` edges out of reset (R99, R113): the machine follows a path of `State.prodEdge`, and the registers of the
crossing, which every edge moves, stand beside the path. -/

namespace Sys2Proof.Machine

/-! ## Runs of the machine -/

theorem run_add {n : Nat} (m : Nat) {s t : State} (h : Sys2Proof.core.run n s = .next t) :
    Sys2Proof.core.run (n + m) s = Sys2Proof.core.run m t := by
  induction n generalizing s with
  | zero => cases h; rw [Nat.zero_add]
  | succ n ih =>
    rw [Nat.add_right_comm]
    simp only [Host.Core.run] at h ⊢
    cases hs : Sys2Proof.core.step s with
    | next u => rw [hs] at h; exact ih h
    | fault f => rw [hs] at h; cases h
    | refused r => rw [hs] at h; cases h

theorem run_one {s t : State} (h : step s = .next t) : Sys2Proof.core.run 1 s = .next t := by
  have core : Sys2Proof.core.step s = .next t := h
  simp only [Host.Core.run, core]

/-! ## The registers of the crossing beside an edge -/

/-- `s` with the registers of the crossing in PROD's domain and the events to come replaced: what every `clk_in` edge moves,
whatever else it does (R99). -/
def State.withCrossing (s : State) (g : Nat) (sync : List Nat) (l : List Event) : State :=
  { s with prod := { s.prod with hfGray := g, tfSync := sync }, inbox := l }

section

variable (s : State) (g : Nat) (sync : List Nat) (l : List Event)

@[simp] theorem State.withCrossing_inLog : (s.withCrossing g sync l).inLog = s.inLog := rfl
@[simp] theorem State.withCrossing_prod_state : (s.withCrossing g sync l).prod.state = s.prod.state := rfl
@[simp] theorem State.withCrossing_prod_stageCnt : (s.withCrossing g sync l).prod.stageCnt = s.prod.stageCnt := rfl
@[simp] theorem State.withCrossing_prod_cphase : (s.withCrossing g sync l).prod.cphase = s.prod.cphase := rfl
@[simp] theorem State.withCrossing_prod_waitCnt : (s.withCrossing g sync l).prod.waitCnt = s.prod.waitCnt := rfl
@[simp] theorem State.withCrossing_prod_copyIdx : (s.withCrossing g sync l).prod.copyIdx = s.prod.copyIdx := rfl
@[simp] theorem State.withCrossing_prodOutOfReset : (s.withCrossing g sync l).prodOutOfReset = s.prodOutOfReset := rfl
@[simp] theorem State.withCrossing_inReady : (s.withCrossing g sync l).inReady = s.inReady := rfl

end

/-- The form in which the statements say that the registers of the crossing may differ. -/
theorem eq_of_withCrossing {s t : State} {g : Nat} {sync : List Nat} {l : List Event} (h : t = s.withCrossing g sync l) :
    t = { s with
      prod := { s.prod with hfGray := t.prod.hfGray, tfSync := t.prod.tfSync }
      inbox := l } := by subst h; rfl

theorem accepted_withCrossing (s : State) (d : Byte) (g : Nat) (sync : List Nat) (l : List Event) :
    (s.withCrossing g sync l).accepted d = (s.accepted d).withCrossing g sync l := rfl

theorem backpressured_withCrossing (s : State) (g : Nat) (sync : List Nat) (l : List Event) :
    (s.withCrossing g sync l).backpressured = s.backpressured.withCrossing g sync l := by
  rw [State.backpressured, State.backpressured, apply_ite (State.withCrossing · g sync l)]; rfl

/-- CHECK reads the view, and nothing else of the crossing (R102, R113). -/
theorem checkEdge_withCrossing {s : State} {g : Nat} {sync : List Nat} {l : List Event}
    (view : (s.withCrossing g sync l).canCommit = s.canCommit) :
    (s.withCrossing g sync l).checkEdge = s.checkEdge.withCrossing g sync l := by
  rw [State.checkEdge, view, backpressured_withCrossing, State.checkEdge, apply_ite (State.withCrossing · g sync l),
    apply_ite (State.withCrossing · g sync l)]
  rfl

theorem waitEdge_withCrossing (s : State) (g : Nat) (sync : List Nat) (l : List Event) :
    (s.withCrossing g sync l).waitEdge = s.waitEdge.withCrossing g sync l := by
  rw [State.waitEdge, State.waitEdge, apply_ite (State.withCrossing · g sync l)]; rfl

/-- An edge of WAIT, whatever SRC drives (R113). -/
theorem prodEdge_pauses (s : State) (v : Bool) (d : Byte) (hs : s.prod.state = codeCommit) (hp : s.prod.cphase = .wait) :
    s.prodEdge v d = .ok s.waitEdge := by
  simp [State.prodEdge, hs, hp, codeUnused, codeCommit]

/-- What PROD does at an edge depends on the crossing only through the view that CHECK reads. -/
theorem prodEdge_withCrossing {s a : State} {v : Bool} {d : Byte} {g : Nat} {sync : List Nat} {l : List Event}
    (view : s.prod.state = codeCommit → s.prod.cphase = .check → (s.withCrossing g sync l).canCommit = s.canCommit)
    (h : s.prodEdge v d = .ok a) : (s.withCrossing g sync l).prodEdge v d = .ok (a.withCrossing g sync l) := by
  by_cases hs : s.prod.state = codeCommit
  · cases hp : s.prod.cphase with
    | check =>
      rw [prodEdge_checks s v d hs hp] at h
      cases h
      rw [prodEdge_checks (s.withCrossing g sync l) v d hs hp, checkEdge_withCrossing (view hs hp)]
    | wait =>
      rw [prodEdge_pauses s v d hs hp] at h
      cases h
      rw [prodEdge_pauses (s.withCrossing g sync l) v d hs hp, waitEdge_withCrossing]
    | copy =>
      obtain ⟨b, hb, rfl⟩ := (prodEdge_copies s a v d hs hp).1 h
      refine (prodEdge_copies (s.withCrossing g sync l) _ v d hs hp).2 ⟨b, hb, ?_⟩
      exact apply_ite (State.withCrossing · g sync l) (s.prod.copyIdx = 511#9) _ _
  · have code : s.prod.state ≠ codeUnused := fun e => by simp [State.prodEdge, e] at h
    by_cases taken : (v && s.inReady) = true
    · by_cases full : 512#10 ≤ s.prod.stageCnt
      · simp [State.prodEdge, hs, code, taken, full] at h
      · obtain rfl : s.accepted d = a := by simpa [State.prodEdge, hs, code, taken, full] using h
        simp [State.prodEdge, hs, code, taken, full, accepted_withCrossing]
    · obtain rfl : s = a := by simpa [State.prodEdge, hs, code, taken] using h
      simp [State.prodEdge, hs, code, taken]

/-- A step of the machine at a `clk_in` edge out of reset: PROD's edge, and R99's assignments beside it. -/
theorem step_withCrossing {s a : State} {v : Bool} {d : Byte} {g : Nat} {sync : List Nat} {l : List Event}
    (hl : s.cfg.legal = true) (out : s.prodOutOfReset = true)
    (view : s.prod.state = codeCommit → s.prod.cphase = .check → (s.withCrossing g sync l).canCommit = s.canCommit)
    (h : s.prodEdge v d = .ok a) :
    step (s.withCrossing g sync (.clkIn v d :: l)) =
      .next (a.withCrossing (grayOf s.prod.hf) (shiftIn s.cons.tfGray sync) l) :=
  (step_event (s.withCrossing g sync (.clkIn v d :: l)) (.clkIn v d) l hl rfl).trans <|
    (clkInEdge_eq_next v d (s.withCrossing g sync l) _).2 (.inr (.inr ⟨out, _, prodEdge_withCrossing view h, rfl⟩))

/-! ## Paths of edges -/

/-- The states that a list of `clk_in` edges leads PROD through, the registers of the crossing set aside. Only CHECK reads the
crossing (R102): where the path comes to it, `can_commit` is the same with the chain as that many edges have shifted it. -/
structure EdgePath (path : Nat → State) (evs : List Event) : Prop where
  events : allClkIn evs
  edge : ∀ k v d, evs[k]? = some (.clkIn v d) → (path k).prodEdge v d = .ok (path (k + 1))
  view : ∀ k g l, k < evs.length → (path k).prod.state = codeCommit → (path k).prod.cphase = .check →
    ((path k).withCrossing g ((shiftIn (path 0).cons.tfGray)^[k] (path 0).prod.tfSync) l).canCommit = (path k).canCommit

namespace EdgePath

variable {path : Nat → State} {evs : List Event}

/-- The k-th edge of the path. -/
theorem event (h : EdgePath path evs) {k : Nat} (hk : k < evs.length) :
    ∃ v d, evs[k] = .clkIn v d ∧ (path k).prodEdge v d = .ok (path (k + 1)) := by
  obtain ⟨v, d, e⟩ := h.events _ (List.getElem_mem hk)
  exact ⟨v, d, e, h.edge k v d (by rw [List.getElem?_eq_getElem hk, e])⟩

/-- A path keeps what PROD never moves. -/
theorem frame (h : EdgePath path evs) {n : Nat} (hn : n ≤ evs.length) :
    (path n).cfg = (path 0).cfg ∧ (path n).cons = (path 0).cons ∧ (path n).rst = (path 0).rst := by
  induction n with
  | zero => exact ⟨rfl, rfl, rfl⟩
  | succ n ih =>
    obtain ⟨v, d, -, edge⟩ := h.event hn
    obtain ⟨cfg, cons, -, rst, -⟩ := (prodEdge_move _ _ v d edge).frame
    obtain ⟨cfg', cons', rst'⟩ := ih (Nat.le_of_lt hn)
    exact ⟨cfg.trans cfg', cons.trans cons', rst.trans rst'⟩

/-- The machine follows the path, and the chain of the crossing shifts in `tf_gray` at every edge (R99). -/
theorem run (h : EdgePath path evs) (hl : (path 0).cfg.legal = true) (out : (path 0).prodOutOfReset = true)
    (rest : List Event) {n : Nat} (hn : n ≤ evs.length) :
    ∃ g, Sys2Proof.core.run n { path 0 with inbox := evs ++ rest } = .next ((path n).withCrossing g
      ((shiftIn (path 0).cons.tfGray)^[n] (path 0).prod.tfSync) (evs.drop n ++ rest)) := by
  induction n with
  | zero => exact ⟨(path 0).prod.hfGray, rfl⟩
  | succ n ih =>
    obtain ⟨g, before⟩ := ih (Nat.le_of_lt hn)
    obtain ⟨v, d, ev, edge⟩ := h.event hn
    obtain ⟨cfg, cons, rst⟩ := h.frame (Nat.le_of_lt hn)
    have inbox : evs.drop n ++ rest = .clkIn v d :: (evs.drop (n + 1) ++ rest) := by
      rw [List.drop_eq_getElem_cons hn, ev, List.cons_append]
    have reset : (path n).prodOutOfReset = true := by rw [State.prodOutOfReset, rst]; exact out
    rw [run_add 1 before, inbox, Function.iterate_succ_apply', ← cons]
    exact ⟨_, run_one (step_withCrossing (cfg ▸ hl) reset (cons ▸ h.view n _ _ hn) edge)⟩

end EdgePath

/-- A path that starts at `s` and goes on with `next`. -/
def startingAt (s : State) (next : Nat → State) : Nat → State
  | 0 => s
  | k + 1 => next k

end Sys2Proof.Machine
end

section
/-! The three paths of COMMIT at the cycle level (R108 to R110, R113): a passed CHECK with its COPY edges, a failed CHECK with its
WAIT edges, and a frame from its first byte to its publication (R114). -/

namespace Sys2Proof.Machine

/-! ## A passed CHECK and its COPY edges -/

theorem slotWriteFrom_concat (p : Params) (m : List Host.Cell) (slot i : Nat) (l : List Byte) (v : Byte) :
    slotWriteFrom p m slot i (l ++ [v]) = ramWrite (slotWriteFrom p m slot i l) (ramAddr p slot (i + l.length)) v := by
  induction l generalizing m i with
  | nil => rfl
  | cons w t ih =>
    rw [List.cons_append, slotWriteFrom, slotWriteFrom, ih, List.length_cons, Nat.add_right_comm i 1, Nat.add_assoc]

/-- In COPY, after k bytes of the frame (R113). -/
def State.copying (s : State) (frame : List Byte) (k : Nat) : State :=
  { s with
    ram := slotWriteFrom s.cfg s.ram s.prod.hf 0 (frame.take k)
    prod := { s.prod with cphase := .copy, copyIdx := BitVec.ofNat 9 k } }

@[simp] theorem State.copying_prod_state (s : State) (frame : List Byte) (k : Nat) :
    (s.copying frame k).prod.state = s.prod.state := rfl
@[simp] theorem State.copying_prod_cphase (s : State) (frame : List Byte) (k : Nat) :
    (s.copying frame k).prod.cphase = .copy := rfl
@[simp] theorem State.copying_prod_copyIdx (s : State) (frame : List Byte) (k : Nat) :
    (s.copying frame k).prod.copyIdx = BitVec.ofNat 9 k := rfl

/-- From CHECK on: CHECK, then 512 bytes, then the commit. -/
def State.copyPath (s : State) (frame : List Byte) : Nat → State :=
  startingAt s fun k => if k < 512 then s.copying frame k else s.committed frame

section

variable {s : State} {frame : List Byte}

theorem copyPath_copying {k : Nat} (hk : k < 512) : s.copyPath frame (k + 1) = s.copying frame k := if_pos hk

theorem copyPath_committed {k : Nat} (hk : k = 513) : s.copyPath frame k = s.committed frame := by subst hk; rfl

/-- The k-th COPY edge writes byte k of the frame, and the last of them publishes it. -/
theorem copying_edge (hs : s.prod.state = codeCommit) (staged : readRun s.prod.stage 0 512 = .ok frame) {k : Nat}
    (hk : k < 512) (v : Bool) (d : Byte) : (s.copying frame k).prodEdge v d = .ok (s.copyPath frame (k + 2)) := by
  obtain ⟨len, cells⟩ := (readRun_eq_ok _ _ _ _).1 staged
  have byte : readCell s.prod.stage k = some frame[k] := by
    have cell := cells k hk
    rwa [Nat.zero_add, List.getElem?_eq_getElem (by omega)] at cell
  have index : (BitVec.ofNat 9 k).toNat = k := by rw [BitVec.toNat_ofNat]; omega
  have written : slotWriteFrom s.cfg s.ram s.prod.hf 0 (frame.take (k + 1)) =
      ramWrite (slotWriteFrom s.cfg s.ram s.prod.hf 0 (frame.take k)) (ramAddr s.cfg s.prod.hf k) frame[k] := by
    rw [List.take_succ_eq_append_getElem (by omega), slotWriteFrom_concat, List.length_take, Nat.zero_add,
      Nat.min_eq_left (by omega)]
  refine (prodEdge_copies (s.copying frame k) _ v d hs rfl).2 ⟨frame[k], ?_, ?_⟩
  · exact (congrArg (readCell s.prod.stage) index).trans byte
  · have last : BitVec.ofNat 9 k = 511#9 ↔ k = 511 := by rw [← BitVec.toNat_inj, index]; rfl
    simp only [State.copying_prod_copyIdx, index, last]
    split
    next e =>
      subst e
      have whole : frame.take (511 + 1) = frame := List.take_of_length_le (by omega)
      rw [whole] at written
      rw [copyPath_committed rfl, State.committed, written]; rfl
    next ne => rw [copyPath_copying (by omega), State.copying, written, BitVec.ofNat_add]; rfl

/-- The 513 edges of a commit, up to its publication. -/
theorem copyPath_edge (hs : s.prod.state = codeCommit) (hp : s.prod.cphase = .check) (room : s.canCommit = true)
    (staged : readRun s.prod.stage 0 512 = .ok frame) {k : Nat} (hk : k < 513) (v : Bool) (d : Byte) :
    (s.copyPath frame k).prodEdge v d = .ok (s.copyPath frame (k + 1)) := by
  cases k with
  | zero => exact (prodEdge_checks s v d hs hp).trans (congrArg _ (if_pos room))
  | succ k => rw [copyPath_copying (by omega)]; exact copying_edge hs staged (by omega) v d

/-- The path stays in COMMIT up to the publication. -/
theorem copyPath_state {k : Nat} (hk : k < 513) : (s.copyPath frame k).prod.state = s.prod.state := by
  cases k with
  | zero => rfl
  | succ k => rw [copyPath_copying (by omega)]; rfl

theorem copyPath_inLog (k : Nat) : (s.copyPath frame k).inLog = s.inLog := by
  cases k with
  | zero => rfl
  | succ k =>
    by_cases hk : k < 512
    · rw [copyPath_copying hk]; rfl
    · rw [State.copyPath, startingAt, if_neg hk, State.committed_inLog]

/-- CHECK is the start of the path only: behind it stand COPY, and IDLE after the publication. -/
theorem copyPath_succ_not_check (k : Nat) :
    ¬ ((s.copyPath frame (k + 1)).prod.state = codeCommit ∧ (s.copyPath frame (k + 1)).prod.cphase = .check) := by
  by_cases hk : k < 512
  · rw [copyPath_copying hk]; rintro ⟨-, e⟩; cases e
  · rintro ⟨e, -⟩
    rw [State.copyPath, startingAt, if_neg hk, State.committed_prod_state] at e
    exact absurd e (by decide)

end

/-! ## A failed CHECK and its WAIT edges -/

/-- k edges after a failed CHECK: the wait runs down from RETRY_WAIT − 1, and then the next CHECK is due (R110, R113). -/
def State.waiting (s : State) (k : Nat) : State :=
  { s.backpressured with
    prod := { s.backpressured.prod with
      cphase := if k = s.cfg.retryWait then .check else .wait
      waitCnt := if s.cfg.retryWait = 0 then s.backpressured.prod.waitCnt else BitVec.ofNat 16 (s.cfg.retryWait - (k + 1)) } }

section

variable {s : State}

/-- A failed CHECK. -/
theorem checkEdge_waiting (full : s.canCommit = false) : s.checkEdge = s.waiting 0 := by
  by_cases zero : s.cfg.retryWait = 0
  · simp [State.checkEdge, State.waiting, full, zero]
  · simp [State.checkEdge, State.waiting, full, zero, Ne.symm zero]

/-- A WAIT edge. -/
theorem waiting_edge (hl : s.cfg.legal = true) (hs : s.prod.state = codeCommit) {k : Nat} (hk : k < s.cfg.retryWait)
    (v : Bool) (d : Byte) : (s.waiting k).prodEdge v d = .ok (s.waiting (k + 1)) := by
  obtain ⟨-, -, -, -, -, -, -, -, bound⟩ := (legal_iff s.cfg).1 hl
  have state : (s.waiting k).prod.state = codeCommit := (State.backpressured_prod_state s).trans hs
  have phase : (s.waiting k).prod.cphase = .wait := if_neg (Nat.ne_of_lt hk)
  have count : (s.waiting k).prod.waitCnt = BitVec.ofNat 16 (s.cfg.retryWait - (k + 1)) := if_neg (by omega)
  rw [prodEdge_pauses _ v d state phase, State.waitEdge, count]
  by_cases last : k + 1 = s.cfg.retryWait
  · simp [State.waiting, ← last]
  · have more : BitVec.ofNat 16 (s.cfg.retryWait - (k + 1)) ≠ 0#16 := by
      rw [ne_eq, ← BitVec.toNat_inj, BitVec.toNat_ofNat, BitVec.toNat_ofNat]; omega
    have next : BitVec.ofNat 16 (s.cfg.retryWait - (k + 1)) - 1#16 = BitVec.ofNat 16 (s.cfg.retryWait - (k + 1 + 1)) := by
      rw [← BitVec.toNat_inj, BitVec.toNat_sub, BitVec.toNat_ofNat, BitVec.toNat_ofNat, BitVec.toNat_ofNat]; omega
    rw [if_neg more, next]
    simp [State.waiting, last, Nat.ne_of_lt hk, show s.cfg.retryWait ≠ 0 by omega]

end

/-! ## A whole frame -/

theorem writeRun_concat {α : Type} (st : Store α) (base : Nat) (l : List α) (v : α) :
    writeRun st base (l ++ [v]) = writeCell (writeRun st base l) (base + l.length) v := by
  induction l generalizing st base with
  | nil => rfl
  | cons w t ih => rw [List.cons_append, writeRun, writeRun, ih, List.length_cons, Nat.add_right_comm base 1, Nat.add_assoc]

/-- A list that was written reads back, whatever the store held before. -/
theorem readRun_writeRun {α : Type} (st : Store α) (l : List α) : readRun (writeRun st 0 l) 0 l.length = .ok l :=
  (readRun_eq_ok _ _ _ _).2 ⟨rfl, fun i hi => by
    rw [readCell_writeRun, Nat.zero_add, Nat.zero_add, if_pos ⟨Nat.zero_le i, hi⟩, Nat.sub_zero]⟩

/-- The first k of the bytes offered. -/
def offered (d : Nat → Byte) (k : Nat) : List Byte := (List.range k).map d

@[simp] theorem offered_length (d : Nat → Byte) (k : Nat) : (offered d k).length = k := by simp [offered]

theorem offered_succ (d : Nat → Byte) (k : Nat) : offered d (k + 1) = offered d k ++ [d k] := by
  simp [offered, List.range_succ]

theorem offered_getElem? (d : Nat → Byte) {k i : Nat} (hi : i < k) : (offered d k)[i]? = some (d i) := by
  simp [offered, hi]

/-- k bytes of a frame that begins in `s` are staged (R108). -/
def State.staging (s : State) (d : Nat → Byte) (k : Nat) : State :=
  { s with
    prod := { s.prod with
      stage := writeRun s.prod.stage 0 (offered d k)
      stageCnt := BitVec.ofNat 10 k
      state := if k = 0 then codeIdle else if k = 512 then codeCommit else codeAccum
      cphase := if k = 512 then .check else s.prod.cphase }
    inLog := s.inLog ++ offered d k }

/-- The states of a frame's 1025 edges: 512 bytes staged one by one, then the commit. -/
def State.framePath (s : State) (d : Nat → Byte) (k : Nat) : State :=
  (s.staging d (min k 512)).copyPath (offered d 512) (k - 512)

section

variable {s : State} {d : Nat → Byte}

theorem staging_stage (s : State) (d : Nat → Byte) (k : Nat) :
    (s.staging d k).prod.stage = writeRun s.prod.stage 0 (offered d k) := rfl

theorem staging_zero (hs : s.prod.state = codeIdle) (count : s.prod.stageCnt = 0#10) : s.staging d 0 = s := by
  simp [State.staging, offered, writeRun, ← hs, ← count]

/-- Before the 512th byte PROD takes bytes (R108). -/
theorem staging_state {k : Nat} (hk : k < 512) :
    (s.staging d k).prod.state = codeIdle ∨ (s.staging d k).prod.state = codeAccum := by
  by_cases zero : k = 0
  · exact .inl (if_pos zero)
  · exact .inr ((if_neg zero).trans (if_neg (Nat.ne_of_lt hk)))

theorem staging_ne_commit {k : Nat} (hk : k < 512) : (s.staging d k).prod.state ≠ codeCommit := by
  obtain e | e := staging_state (s := s) (d := d) hk <;> rw [e] <;> decide

theorem staging_inReady (out : s.prodOutOfReset = true) {k : Nat} (hk : k < 512) : (s.staging d k).inReady = true := by
  have reset : (s.staging d k).prodOutOfReset = true := out
  simpa [State.inReady, reset] using staging_state hk

/-- The whole frame stands in STAGE. -/
theorem staging_staged : readRun (s.staging d 512).prod.stage 0 512 = .ok (offered d 512) := by
  have whole := readRun_writeRun s.prod.stage (offered d 512)
  rwa [offered_length, ← staging_stage] at whole

/-- An accepting edge stages the next byte. -/
theorem staging_edge (out : s.prodOutOfReset = true) {k : Nat} (hk : k < 512) :
    (s.staging d k).prodEdge true (d k) = .ok (s.staging d (k + 1)) := by
  have count : (s.staging d k).prod.stageCnt.toNat = k := by
    simp only [State.staging, BitVec.toNat_ofNat]; omega
  have next : (s.staging d k).prod.stageCnt + 1#10 = BitVec.ofNat 10 (k + 1) := (BitVec.ofNat_add ..).symm
  have full : BitVec.ofNat 10 (k + 1) = 512#10 ↔ k + 1 = 512 := by
    rw [← BitVec.toNat_inj, BitVec.toNat_ofNat, BitVec.toNat_ofNat]; omega
  rw [prodEdge_accepts _ (d k) (staging_inReady out hk) (by omega), State.accepted, count, next]
  simp [State.staging, full, offered_succ, writeRun_concat, Nat.ne_of_lt hk]

/-- With the 512th byte PROD comes to CHECK (R108, R113). -/
theorem staging_check : (s.staging d 512).prod.state = codeCommit ∧ (s.staging d 512).prod.cphase = .check := by
  simp [State.staging]

/-- A whole frame's commit, seen from the state in which the frame began: the log, STAGE, the ring RAM and the registers of the
publication are all that it changes (R108, R109). -/
theorem staging_committed (hs : s.prod.state = codeIdle) (count : s.prod.stageCnt = 0#10) {n : Nat} {frame : List Byte}
    {c : State} (hc : c = (s.staging d n).committed frame) :
    c = { s with
      ram := c.ram
      inLog := s.inLog ++ (List.range n).map d
      prod := { s.prod with
        stage := c.prod.stage, hf := (s.prod.hf + 1) % s.slots, bpFlag := false, cphase := .check
        copyIdx := c.prod.copyIdx } } := by
  subst hc
  simp only [hs, count]
  rfl

theorem framePath_staging {k : Nat} (hk : k ≤ 512) : s.framePath d k = s.staging d k := by
  rw [State.framePath, Nat.min_eq_left hk, Nat.sub_eq_zero_of_le hk]; rfl

theorem framePath_commit {k j : Nat} (h : k = 512 + j) :
    s.framePath d k = (s.staging d 512).copyPath (offered d 512) j := by
  rw [State.framePath, Nat.min_eq_right (by omega), h, Nat.add_sub_cancel_left]

theorem framePath_inLog (k : Nat) : (s.framePath d k).inLog = s.inLog ++ (List.range (min k 512)).map d :=
  copyPath_inLog _

theorem framePath_check :
    (s.framePath d 512).prod.state = codeCommit ∧ (s.framePath d 512).prod.cphase = .check := by
  rw [framePath_staging (Nat.le_refl 512)]; exact staging_check

theorem framePath_copying {k : Nat} (first : 513 ≤ k) (last : k < 1025) :
    (s.framePath d k).prod.state = codeCommit ∧ (s.framePath d k).prod.cphase = .copy ∧
      (s.framePath d k).prod.copyIdx.toNat = k - 513 := by
  obtain ⟨j, hj⟩ := Nat.exists_eq_add_of_le first
  have index : (BitVec.ofNat 9 j).toNat = k - 513 := by rw [BitVec.toNat_ofNat]; omega
  rw [framePath_commit (j := j + 1) (by omega), copyPath_copying (by omega)]
  exact ⟨(State.copying_prod_state ..).trans staging_check.1, State.copying_prod_cphase ..,
    (congrArg BitVec.toNat (State.copying_prod_copyIdx ..)).trans index⟩

/-- `in_ready` is 0 from the 512th byte to the publication (R114, R49 item 2). -/
theorem framePath_inReady (out : s.prodOutOfReset = true) {k : Nat} (hk : k ≤ 1025) :
    (s.framePath d k).inReady = decide (k < 512 ∨ k = 1025) := by
  rcases Nat.lt_or_ge k 512 with lt | ge
  · rw [framePath_staging (by omega), staging_inReady out lt]; simp [lt]
  · obtain ⟨j, hj⟩ := Nat.exists_eq_add_of_le ge
    rw [framePath_commit hj]
    by_cases done : j = 513
    · have reset : ((s.staging d 512).committed (offered d 512)).prodOutOfReset = true := out
      rw [copyPath_committed done, State.inReady, reset, State.committed_prod_state]
      simp [hj, done]
    · have state := copyPath_state (s := s.staging d 512) (frame := offered d 512) (show j < 513 by omega)
      have later : ¬ (k < 512 ∨ k = 1025) := by omega
      rw [State.inReady, state, staging_check.1, decide_eq_false later]
      exact Bool.and_false _

end

/-! ## The view ahead -/

/-- What a chain of flops holds after k edges was in it before, or came in (R99). -/
theorem mem_iterate_shiftIn {α : Type} {v x : α} {chain : List α} {k : Nat} (h : x ∈ (shiftIn v)^[k] chain) :
    x ∈ v :: chain := by
  induction k with
  | zero => exact List.mem_cons_of_mem _ h
  | succ k ih =>
    rw [Function.iterate_succ_apply'] at h
    obtain rfl | old := List.mem_cons.1 (List.mem_of_mem_take h)
    · exact List.mem_cons_self
    · exact ih old

theorem iterate_shiftIn_length {α : Type} (v : α) (chain : List α) (k : Nat) :
    ((shiftIn v)^[k] chain).length = chain.length := by
  induction k with
  | zero => rfl
  | succ k ih => rw [Function.iterate_succ_apply', shiftIn_length, ih]

/-- With room ahead, no number of edges brings a view without it. -/
theorem roomAhead_view {s : State} (h : roomAhead s) (k : Nat) :
    ptrDiff s.slots s.prod.hf (grayInv s.cfg.fptrW (lastFlop ((shiftIn s.cons.tfGray)^[k] s.prod.tfSync))) + 2 ≤ s.slots := by
  obtain ⟨flops, room⟩ := h
  refine room _ (mem_iterate_shiftIn (getLastD_mem ?_))
  rw [← List.length_pos_iff, iterate_shiftIn_length]
  exact List.length_pos_iff.2 flops

/-- With room ahead the CHECK of the frame passes, whatever the crossing has brought by then. -/
theorem staging_canCommit {s : State} (h : roomAhead s) (d : Nat → Byte) (n : Nat) : (s.staging d n).canCommit = true :=
  decide_eq_true (roomAhead_view h 0)

theorem staging_canCommit_later {s : State} (h : roomAhead s) (d : Nat → Byte) (n g k : Nat) (l : List Event) :
    ((s.staging d n).withCrossing g ((shiftIn s.cons.tfGray)^[k] s.prod.tfSync) l).canCommit = true :=
  decide_eq_true (roomAhead_view h k)

end Sys2Proof.Machine
end

section
/-! The commit at the cycle level is the commit of the transaction level (R109, R110, R113, R114). -/

namespace Sys2Proof.Machine

/-! ## The paths are runs of edges -/

theorem copyPath_edgePath {s : State} {frame : List Byte} {evs : List Event} (hs : s.prod.state = codeCommit)
    (hp : s.prod.cphase = .check) (room : s.canCommit = true) (staged : readRun s.prod.stage 0 512 = .ok frame)
    (len : evs.length = 513) (clk : allClkIn evs) : EdgePath (s.copyPath frame) evs where
  events := clk
  edge k v d he := copyPath_edge hs hp room staged (len ▸ (List.getElem?_eq_some_iff.1 he).1) v d
  view k g l _ hc hk := by
    cases k with
    | zero => rfl
    | succ k => exact absurd ⟨hc, hk⟩ (copyPath_succ_not_check k)

theorem waiting_edgePath {s : State} {evs : List Event} (hl : s.cfg.legal = true) (hs : s.prod.state = codeCommit)
    (hp : s.prod.cphase = .check) (full : s.canCommit = false) (len : evs.length ≤ s.cfg.retryWait + 1)
    (clk : allClkIn evs) : EdgePath (startingAt s s.waiting) evs where
  events := clk
  edge k v d he := by
    have hk := (List.getElem?_eq_some_iff.1 he).1
    cases k with
    | zero => exact (prodEdge_checks s v d hs hp).trans (congrArg _ (checkEdge_waiting full))
    | succ k => exact waiting_edge hl hs (by omega) v d
  view k g l hn _ hk := by
    cases k with
    | zero => rfl
    | succ k =>
      have phase : (s.waiting k).prod.cphase = .wait := if_neg (by omega)
      rw [startingAt, phase] at hk
      cases hk

theorem heldInput_getElem? {n : Nat} {d : Nat → Byte} {k : Nat} {v : Bool} {x : Byte}
    (h : (heldInput n d)[k]? = some (.clkIn v x)) : k < n ∧ v = true ∧ x = d k := by
  obtain ⟨hk, e⟩ := List.getElem?_eq_some_iff.1 h
  rw [heldInput, List.length_map, List.length_range] at hk
  simp only [heldInput, List.getElem_map, List.getElem_range, Event.clkIn.injEq] at e
  exact ⟨hk, e.1.symm, e.2.symm⟩

theorem framePath_edgePath {s : State} (d : Nat → Byte) (out : s.prodOutOfReset = true) (room : roomAhead s) :
    EdgePath (s.framePath d) (heldInput 1025 d) where
  events e he := by
    obtain ⟨k, -, rfl⟩ := List.mem_map.1 he
    exact ⟨_, _, rfl⟩
  edge k v x he := by
    obtain ⟨hk, rfl, rfl⟩ := heldInput_getElem? he
    rcases Nat.lt_or_ge k 512 with lt | ge
    · rw [framePath_staging (by omega), framePath_staging (by omega)]
      exact staging_edge out lt
    · obtain ⟨j, hj⟩ := Nat.exists_eq_add_of_le ge
      obtain ⟨hs, hp⟩ := staging_check (s := s) (d := d)
      rw [framePath_commit hj, framePath_commit (j := j + 1) (by omega)]
      exact copyPath_edge hs hp (staging_canCommit room d 512) staging_staged (by omega) _ _
  view k g l _ hc hk := by
    obtain lt | rfl | gt := Nat.lt_trichotomy k 512
    · rw [framePath_staging (by omega)] at hc
      exact absurd hc (staging_ne_commit lt)
    · rw [framePath_staging (by omega), framePath_staging (by omega)]
      exact (staging_canCommit_later room d 512 g 512 l).trans (staging_canCommit room d 512).symm
    · obtain ⟨j, hj⟩ := Nat.exists_eq_add_of_lt gt
      rw [framePath_commit (j := j + 1) hj] at hc hk
      exact absurd ⟨hc, hk⟩ (copyPath_succ_not_check j)

/-! ## Each run is its row -/

/-- R113, R109: a passed CHECK and its 512 COPY edges are one COMMIT_OK. -/
theorem copy_isOneCommit {s : State} {frame : List Byte} {evs : List Event} (rest : List Event) (v : BitVec 1) (x : Byte)
    (hl : s.cfg.legal = true) (out : s.prodOutOfReset = true) (hs : s.prod.state = codeCommit)
    (hp : s.prod.cphase = .check) (room : s.canCommit = true) (staged : readRun s.prod.stage 0 512 = .ok frame)
    (len : evs.length = 513) (clk : allClkIn evs) :
    ∃ t u, Sys2Proof.core.run 513 { s with inbox := evs ++ rest } = .next t ∧ exec (.commitOk v x) s = .next u ∧
      t.ram = u.ram ∧
      t = { u with
        prod := { u.prod with hfGray := t.prod.hfGray, tfSync := t.prod.tfSync }
        inbox := rest } := by
  obtain ⟨g, run⟩ := (copyPath_edgePath hs hp room staged len clk).run hl out rest (Nat.le_refl evs.length)
  rw [List.drop_length, List.nil_append, copyPath_committed len, len] at run
  exact ⟨_, s.committed frame, run, (execCommitOk_eq_next v x s _).2 ⟨out, hs, room, frame, staged, rfl⟩, rfl,
    eq_of_withCrossing rfl⟩

/-- R113, R110: a failed CHECK and the edges of its wait are one COMMIT_BP, up to the wait's registers. -/
theorem failedCheck_isOneBackpressure {s : State} {evs : List Event} (rest : List Event) (v : BitVec 1) (x : Byte)
    (hl : s.cfg.legal = true) (out : s.prodOutOfReset = true) (hs : s.prod.state = codeCommit)
    (hp : s.prod.cphase = .check) (full : s.canCommit = false) (begun : 1 ≤ evs.length)
    (len : evs.length ≤ s.cfg.retryWait + 1) (clk : allClkIn evs) :
    ∃ t u, Sys2Proof.core.run evs.length { s with inbox := evs ++ rest } = .next t ∧ exec (.commitBp v x) s = .next u ∧
      t.prod.cphase = (if evs.length = s.cfg.retryWait + 1 then .check else .wait) ∧
      (evs.length ≤ s.cfg.retryWait → t.prod.waitCnt.toNat = s.cfg.retryWait - evs.length) ∧
      t = { u with
        prod := { u.prod with
          cphase := t.prod.cphase, waitCnt := t.prod.waitCnt, hfGray := t.prod.hfGray, tfSync := t.prod.tfSync }
        inbox := rest } := by
  obtain ⟨-, -, -, -, -, -, -, -, bound⟩ := (legal_iff s.cfg).1 hl
  obtain ⟨g, run⟩ := (waiting_edgePath hl hs hp full len clk).run hl out rest (Nat.le_refl evs.length)
  obtain ⟨m, hm⟩ := Nat.exists_eq_add_of_le' begun
  rw [List.drop_length, List.nil_append] at run
  rw [hm] at run ⊢
  refine ⟨_, s.backpressured, run, (execCommitBp_eq_next v x s _).2 ⟨out, hs, full, rfl⟩, ?_, fun le => ?_, rfl⟩
  · simp only [startingAt, State.withCrossing_prod_cphase, State.waiting, Nat.add_right_cancel_iff]
  · have count : (s.waiting m).prod.waitCnt = BitVec.ofNat 16 (s.cfg.retryWait - (m + 1)) := if_neg (by omega)
    rw [State.withCrossing_prod_waitCnt, startingAt, count, BitVec.toNat_ofNat]
    omega

/-- R114: the run of a frame's 1025 edges. -/
theorem frame_run {s : State} (d : Nat → Byte) (rest : List Event) (hl : s.cfg.legal = true)
    (out : s.prodOutOfReset = true) (hs : s.prod.state = codeIdle) (count : s.prod.stageCnt = 0#10) (room : roomAhead s)
    {n : Nat} (hn : n ≤ 1025) :
    ∃ g, Sys2Proof.core.run n { s with inbox := heldInput 1025 d ++ rest } = .next ((s.framePath d n).withCrossing g
      ((shiftIn s.cons.tfGray)^[n] s.prod.tfSync) ((heldInput 1025 d).drop n ++ rest)) := by
  have start : s.framePath d 0 = s := (framePath_staging (Nat.zero_le _)).trans (staging_zero hs count)
  have path := (framePath_edgePath d out room).run (by rwa [start]) (by rwa [start]) rest (n := n)
    (by rwa [heldInput, List.length_map, List.length_range])
  rwa [start] at path

/-- R114: what stands after n of a frame's edges. -/
theorem frame_edges {s : State} (d : Nat → Byte) (rest : List Event) (hl : s.cfg.legal = true)
    (out : s.prodOutOfReset = true) (hs : s.prod.state = codeIdle) (count : s.prod.stageCnt = 0#10) (room : roomAhead s)
    {n : Nat} (hn : n ≤ 1025) :
    ∃ t, Sys2Proof.core.run n { s with inbox := heldInput 1025 d ++ rest } = .next t ∧
      t.inReady = decide (n < 512 ∨ n = 1025) ∧ t.inLog = s.inLog ++ (List.range (min n 512)).map d ∧
      (n = 512 → t.prod.state = codeCommit ∧ t.prod.cphase = .check ∧ t.canCommit = true) ∧
      (513 ≤ n → n < 1025 → t.prod.state = codeCommit ∧ t.prod.cphase = .copy ∧ t.prod.copyIdx.toNat = n - 513) := by
  obtain ⟨g, run⟩ := frame_run d rest hl out hs count room hn
  refine ⟨_, run, (State.withCrossing_inReady ..).trans (framePath_inReady out hn),
    (State.withCrossing_inLog ..).trans (framePath_inLog n), fun e => ?_, fun first last => ?_⟩
  · obtain ⟨state, phase⟩ := framePath_check (s := s) (d := d)
    have passed : ((s.framePath d n).withCrossing g ((shiftIn s.cons.tfGray)^[n] s.prod.tfSync)
        ((heldInput 1025 d).drop n ++ rest)).canCommit = true := by
      rw [framePath_staging (Nat.le_of_eq e)]; exact staging_canCommit_later room d n g n _
    rw [← e] at state phase
    exact ⟨(State.withCrossing_prod_state ..).trans state, (State.withCrossing_prod_cphase ..).trans phase, passed⟩
  · obtain ⟨state, phase, index⟩ := framePath_copying (s := s) (d := d) first last
    exact ⟨(State.withCrossing_prod_state ..).trans state, (State.withCrossing_prod_cphase ..).trans phase,
      (congrArg BitVec.toNat (State.withCrossing_prod_copyIdx ..)).trans index⟩

/-- R114: the frame is in its slot and published after its 1025 edges, and all else is as it was. -/
theorem frame_published {s : State} (d : Nat → Byte) (rest : List Event) (hl : s.cfg.legal = true)
    (out : s.prodOutOfReset = true) (hs : s.prod.state = codeIdle) (count : s.prod.stageCnt = 0#10) (room : roomAhead s) :
    ∃ t, Sys2Proof.core.run 1025 { s with inbox := heldInput 1025 d ++ rest } = .next t ∧
      (∀ i, i < 512 → readCell t.ram (ramAddr s.cfg s.prod.hf i) = some (d i)) ∧
      (∀ a, (∀ i, i < 512 → a ≠ ramAddr s.cfg s.prod.hf i) → t.ramContents a = s.ramContents a) ∧
      t = { s with
        ram := t.ram
        inLog := s.inLog ++ (List.range 512).map d
        prod := { s.prod with
          stage := t.prod.stage, hf := (s.prod.hf + 1) % s.slots, bpFlag := false, cphase := .check
          copyIdx := t.prod.copyIdx, hfGray := t.prod.hfGray, tfSync := t.prod.tfSync }
        inbox := rest } := by
  obtain ⟨g, run⟩ := frame_run d rest hl out hs count room (Nat.le_refl 1025)
  have spent : (heldInput 1025 d).drop 1025 = [] :=
    List.drop_of_length_le (by rw [heldInput, List.length_map, List.length_range])
  obtain ⟨c, hc⟩ : ∃ c, c = (s.staging d 512).committed (offered d 512) := ⟨_, rfl⟩
  have slot (i : Nat) (hi : i < 512) : readCell c.ram (ramAddr s.cfg s.prod.hf i) = some (d i) := by
    rw [hc, ← offered_getElem? d hi]
    exact committed_slot (s := s.staging d 512) hl (offered_length d 512) hi
  have other (a : Nat) (ha : ∀ i, i < 512 → a ≠ ramAddr s.cfg s.prod.hf i) : c.ramContents a = s.ramContents a := by
    rw [hc]
    exact committed_ramContents_other (s := s.staging d 512) (offered_length d 512) ha
  rw [spent, List.nil_append, framePath_commit (j := 513) rfl, copyPath_committed rfl, ← hc] at run
  generalize (shiftIn s.cons.tfGray)^[1025] s.prod.tfSync = sync at run
  have shape := staging_committed hs count hc
  exact ⟨c.withCrossing g sync rest, run, slot, other, congrArg (State.withCrossing · g sync rest) shape⟩

/-- Settles O58: each of the three runs follows its path of `State.prodEdge`. -/
theorem commitCopyIsOneCommit : Obligations.CommitCopyIsOneCommit :=
  ⟨fun _ _ _ rest v x hl out hs hp room staged len clk => copy_isOneCommit rest v x hl out hs hp room staged len clk,
    fun _ _ rest v x hl out hs hp full begun len clk => failedCheck_isOneBackpressure rest v x hl out hs hp full begun len clk,
    fun _ d rest hl out hs count room => ⟨fun _ hn => frame_edges d rest hl out hs count room hn,
      frame_published d rest hl out hs count room⟩⟩

end Sys2Proof.Machine
end

section
/-! Decoding and encoding are inverse to each other (R59, R60): the fields of a word as quotients and remainders, then the formats,
one after the other. -/

namespace Sys2Proof

/-! ## Fields -/

theorem bits_toNat (w lo len : Nat) : (bits w lo len).toNat = w / 2 ^ lo % 2 ^ len := by
  simp [bits, Nat.shiftRight_eq_div_pow]

/-- What a field holds, as arithmetic on its word. -/
theorem bits_eq_iff {w lo len : Nat} {a : BitVec len} : bits w lo len = a ↔ w / 2 ^ lo % 2 ^ len = a.toNat := by
  rw [← BitVec.toNat_inj, bits_toNat]

theorem bits_whole {n : Nat} (a : BitVec n) : bits a.toNat 0 n = a := by
  rw [bits_eq_iff, pow_zero, Nat.div_one, Nat.mod_eq_of_lt a.isLt]

theorem toNat_bits_whole {w n : Nat} (h : w < 2 ^ n) : (bits w 0 n).toNat = w := by
  rw [bits_toNat, pow_zero, Nat.div_one, Nat.mod_eq_of_lt h]

theorem Cplx.unpack_pack (z : Cplx) : Cplx.unpack z.pack = z := by
  rw [Cplx.unpack, Cplx.pack, BitVec.extractLsb'_append_eq_left, BitVec.extractLsb'_append_eq_right]

theorem Cplx.pack_unpack (b : BitVec 64) : (Cplx.unpack b).pack = b :=
  (BitVec.extractLsb'_append_extractLsb'_eq_extractLsb' rfl).trans BitVec.extractLsb'_eq_self

/-! ## The range checks -/

theorem ifWellFormed_eq_some {p : Params} {i j : Instr} :
    ifWellFormed p j = some i ↔ wellFormed p i = true ∧ j = i := by
  unfold ifWellFormed
  split
  next h => exact ⟨fun e => by cases e; exact ⟨h, rfl⟩, fun ⟨_, e⟩ => congrArg some e⟩
  next h => exact ⟨fun e => (nomatch e), fun ⟨hi, e⟩ => absurd (e ▸ hi) h⟩

theorem within_eq_some_iff {p : Params} {n w : Nat} {i j : Instr} :
    within p n w j = some i ↔ w < 2 ^ n ∧ wellFormed p i = true ∧ j = i := by
  unfold within
  split
  next h => exact ⟨fun e => (nomatch e), fun ⟨hw, _⟩ => absurd hw (Nat.not_lt.2 h)⟩
  next h => rw [ifWellFormed_eq_some, and_iff_right (Nat.not_le.1 h)]

/-- A layout whose fields give back the word they were read from. -/
theorem encode_of_within {p : Params} {n w : Nat} {i j : Instr} {src : Source} (h : within p n w j = some i)
    (read : w < 2 ^ n → encode j = (src, w)) : wellFormed p i = true ∧ encode i = (src, w) := by
  obtain ⟨hw, wf, rfl⟩ := within_eq_some_iff.1 h
  exact ⟨wf, read hw⟩

/-- A layout whose word gives back the fields it was made of. -/
theorem within_of_encode {p : Params} {n w : Nat} {i j : Instr} (hw : w < 2 ^ n) (wf : wellFormed p i = true) (read : j = i) :
    within p n w j = some i := within_eq_some_iff.2 ⟨hw, wf, read⟩

/-! ## What is decoded encodes to its word -/

theorem encode_of_decodeFn {p : Params} {f : Fn} {w : Nat} {i : Instr} (h : decodeFn p w f = some i) :
    wellFormed p i = true ∧ encode i = (.fn f, w) := by
  cases f
  case cmul =>
    refine encode_of_within h fun hw => congrArg (Prod.mk _) ?_
    rw [Cplx.pack_unpack, Cplx.pack_unpack, bits_toNat, bits_toNat]
    omega
  case butterfly | kbounds =>
    refine encode_of_within h fun hw => congrArg (Prod.mk _) ?_
    simp only [bits_toNat]
    omega
  case grayEnc | grayDec => exact encode_of_within h fun _ => rfl
  all_goals exact encode_of_within h fun hw => congrArg (Prod.mk _) (toNat_bits_whole hw)

/-- PROD_IN: the fixed bits of a row and its fields make up the word. -/
theorem encode_of_decodeProdIn {p : Params} {w : Nat} {i : Instr} (h : decodeProdIn w = some i) :
    wellFormed p i = true ∧ encode i = (.prodIn, w) := by
  unfold decodeProdIn at h
  simp only [bits_eq_iff, BitVec.toNat_ofNat] at h
  (repeat' split at h) <;> cases h
  all_goals
    refine ⟨rfl, congrArg (Prod.mk _) ?_⟩
    simp only [bits_toNat]
    omega

theorem encode_of_decodeConsCtl {p : Params} {w : Nat} {i : Instr} (h : decodeConsCtl w = some i) :
    wellFormed p i = true ∧ encode i = (.consCtl, w) := by
  unfold decodeConsCtl at h
  split at h
  next hw => cases h; rw [hw]; exact ⟨rfl, rfl⟩
  next =>
    split at h
    next hw => cases h; obtain rfl | rfl := hw <;> exact ⟨rfl, rfl⟩
    next => cases h

/-- CONS_OUT: its state bits and `out_ready` are fixed, and so are index and byte of the two delimiters. -/
theorem encode_of_decodeConsOut {p : Params} {w : Nat} {i : Instr} (h : decodeConsOut p w = some i) :
    wellFormed p i = true ∧ encode i = (.consOut, w) := by
  unfold decodeConsOut at h
  split at h
  next => cases h
  next fixed =>
    simp only [ne_eq, not_or, not_not, Nat.not_le, bits_eq_iff, BitVec.toNat_ofNat] at fixed
    obtain ⟨width, state, ready⟩ := fixed
    simp only [bits_eq_iff, sofByte, eofByte, BitVec.toNat_ofNat] at h
    split at h
    next =>
      split at h <;> cases h
      exact ⟨rfl, congrArg (Prod.mk _) (by omega)⟩
    next =>
      split at h
      next =>
        split at h <;> cases h
        exact ⟨rfl, congrArg (Prod.mk _) (by omega)⟩
      next =>
        obtain ⟨wf, rfl⟩ := ifWellFormed_eq_some.1 h
        exact ⟨wf, congrArg (Prod.mk _) (by simp only [bits_toNat]; omega)⟩

theorem encode_of_decode {p : Params} {src : Source} {w : Nat} {i : Instr} (h : decode p src w = some i) :
    wellFormed p i = true ∧ encode i = (src, w) := by
  cases src with
  | prodIn => exact encode_of_decodeProdIn h
  | consCtl => exact encode_of_decodeConsCtl h
  | consOut => exact encode_of_decodeConsOut h
  | syncH | syncT => exact encode_of_within h fun _ => rfl
  | portRst =>
    simp only [decode, decodePortRst] at h
    split at h <;> cases h
    next hw => rw [hw]; exact ⟨rfl, rfl⟩
  | fn f => exact encode_of_decodeFn h

/-! ## What is encoded decodes to its operation -/

theorem decode_accept (p : Params) (s c : BitVec 1) (d : Byte) :
    decode p .prodIn (encode (.accept s c d)).2 = some (.accept s c d) := by
  have := s.isLt; have := c.isLt; have := d.isLt
  simp only [decode, encode, decodeProdIn, bits_eq_iff, BitVec.toNat_ofNat]
  rw [if_neg (by omega), if_pos (by omega), if_pos (by omega), Option.some.injEq, Instr.accept.injEq]
  exact ⟨bits_eq_iff.2 (by omega), bits_eq_iff.2 (by omega), bits_eq_iff.2 (by omega)⟩

theorem decode_commitOk (p : Params) (v : BitVec 1) (x : Byte) :
    decode p .prodIn (encode (.commitOk v x)).2 = some (.commitOk v x) := by
  have := v.isLt; have := x.isLt
  simp only [decode, encode, decodeProdIn, bits_eq_iff, BitVec.toNat_ofNat]
  rw [if_neg (by omega), if_neg (by omega), if_pos (by omega), if_pos (by omega), Option.some.injEq, Instr.commitOk.injEq]
  exact ⟨bits_eq_iff.2 (by omega), bits_eq_iff.2 (by omega)⟩

theorem decode_commitBp (p : Params) (v : BitVec 1) (x : Byte) :
    decode p .prodIn (encode (.commitBp v x)).2 = some (.commitBp v x) := by
  have := v.isLt; have := x.isLt
  simp only [decode, encode, decodeProdIn, bits_eq_iff, BitVec.toNat_ofNat]
  rw [if_neg (by omega), if_neg (by omega), if_pos (by omega), if_neg (by omega), Option.some.injEq, Instr.commitBp.injEq]
  exact ⟨bits_eq_iff.2 (by omega), bits_eq_iff.2 (by omega)⟩

theorem decode_process (p : Params) (f : BitVec 1) : decode p .consCtl (encode (.process f)).2 = some (.process f) := by
  have := f.isLt
  change decodeConsCtl (2 + f.toNat) = some (.process f)
  unfold decodeConsCtl
  rw [if_neg (by omega), if_pos (by omega), Option.some.injEq, Instr.process.injEq]
  exact bits_eq_iff.2 (by omega)

theorem decode_emitData {p : Params} {e : BitVec 10} {d : Byte} (wf : wellFormed p (.emitData e d) = true) :
    decode p .consOut (encode (.emitData e d)).2 = some (.emitData e d) := by
  have := d.isLt
  obtain ⟨low, high⟩ : 1 ≤ e.toNat ∧ e.toNat ≤ 512 := by
    simpa [wellFormed, BitVec.le_def] using wf
  have fields : bits (encode (.emitData e d)).2 9 10 = e ∧ bits (encode (.emitData e d)).2 0 8 = d :=
    ⟨bits_eq_iff.2 (by simp only [encode]; omega), bits_eq_iff.2 (by simp only [encode]; omega)⟩
  simp only [decode, decodeConsOut, fields]
  rw [if_neg, if_neg, if_neg]
  · exact ifWellFormed_eq_some.2 ⟨wf, rfl⟩
  · rintro rfl; simp at high
  · rintro rfl; simp at low
  · simp only [not_or, Nat.not_le, ne_eq, not_not, bits_eq_iff, encode, BitVec.toNat_ofNat]; omega

theorem decode_cmul {p : Params} {a b : Cplx} (wf : wellFormed p (.cmul a b) = true) :
    decode p (.fn .cmul) (encode (.cmul a b)).2 = some (.cmul a b) := by
  have := a.pack.isLt; have := b.pack.isLt
  have upper : bits (encode (.cmul a b)).2 64 64 = a.pack := bits_eq_iff.2 (by simp only [encode]; omega)
  have lower : bits (encode (.cmul a b)).2 0 64 = b.pack := bits_eq_iff.2 (by simp only [encode]; omega)
  exact within_of_encode (Laws.Width.cmul a b p wf) wf (by rw [upper, lower, Cplx.unpack_pack, Cplx.unpack_pack])

theorem decode_butterfly {p : Params} {s : BitVec 4} {q : BitVec 8} {j : BitVec 7}
    (wf : wellFormed p (.butterfly s q j) = true) :
    decode p (.fn .butterfly) (encode (.butterfly s q j)).2 = some (.butterfly s q j) := by
  have := s.isLt; have := q.isLt; have := j.isLt
  have stage : bits (encode (.butterfly s q j)).2 15 4 = s := bits_eq_iff.2 (by simp only [encode]; omega)
  have upper : bits (encode (.butterfly s q j)).2 7 8 = q := bits_eq_iff.2 (by simp only [encode]; omega)
  have position : bits (encode (.butterfly s q j)).2 0 7 = j := bits_eq_iff.2 (by simp only [encode]; omega)
  exact within_of_encode (Laws.Width.butterfly s q j p wf) wf (by rw [stage, upper, position])

theorem decode_kbounds {p : Params} {r l h : BitVec 32} (wf : wellFormed p (.kbounds r l h) = true) :
    decode p (.fn .kbounds) (encode (.kbounds r l h)).2 = some (.kbounds r l h) := by
  have := r.isLt; have := l.isLt; have := h.isLt
  have rate : bits (encode (.kbounds r l h)).2 64 32 = r := bits_eq_iff.2 (by simp only [encode]; omega)
  have low : bits (encode (.kbounds r l h)).2 32 32 = l := bits_eq_iff.2 (by simp only [encode]; omega)
  have high : bits (encode (.kbounds r l h)).2 0 32 = h := bits_eq_iff.2 (by simp only [encode]; omega)
  exact within_of_encode (Laws.Width.kbounds r l h p wf) wf (by rw [rate, low, high])

theorem decode_encode {p : Params} {i : Instr} (wf : wellFormed p i = true) :
    decode p (encode i).1 (encode i).2 = some i := by
  cases i
  case accept s c d => exact decode_accept p s c d
  case commitOk v x => exact decode_commitOk p v x
  case commitBp v x => exact decode_commitBp p v x
  case process f => exact decode_process p f
  case emitData e d => exact decode_emitData wf
  case cmul a b => exact decode_cmul wf
  case butterfly s q j => exact decode_butterfly wf
  case kbounds r l h => exact decode_kbounds wf
  case dequeue | emitSof | emitEof | reset => rfl
  case syncH g => exact within_of_encode (Laws.Width.syncH g p wf) wf rfl
  case syncT g => exact within_of_encode (Laws.Width.syncT g p wf) wf rfl
  case grayEnc b => exact within_of_encode (Laws.Width.grayEnc b p wf) wf rfl
  case grayDec g => exact within_of_encode (Laws.Width.grayDec g p wf) wf rfl
  all_goals exact within_of_encode (BitVec.isLt _) wf (congrArg _ (bits_whole _))

/-- Settles O1: decoding undoes encoding (`decode_encode`), and only what encodes to a word is decoded from it (`encode_of_decode`). -/
theorem decodeAndEncodeAgree : Obligations.DecodeAndEncodeAgree := by
  intro p src w i
  refine ⟨encode_of_decode, fun ⟨wf, he⟩ => ?_⟩
  simpa only [he] using decode_encode wf

/-- Settles O2: each operation is well formed and the encoder writes the word that stands there; the one word without a row has
the state bits 11. -/
theorem writtenOutWordsDecode : Obligations.WrittenOutWordsDecode := by
  have decodes {src : Source} {w : Nat} {i : Instr} (h : wellFormed Params.default i = true ∧ encode i = (src, w)) :
      decode Params.default src w = some i := (decodeAndEncodeAgree _ _ _ _).2 h
  exact ⟨decodes ⟨rfl, rfl⟩, decodes ⟨rfl, rfl⟩, decodes ⟨rfl, rfl⟩, decodes ⟨rfl, rfl⟩, decodes ⟨rfl, rfl⟩,
    decodes ⟨rfl, rfl⟩, decodes ⟨rfl, rfl⟩, rfl, decodes ⟨rfl, rfl⟩, decodes ⟨rfl, rfl⟩, decodes ⟨rfl, rfl⟩,
    decodes ⟨rfl, rfl⟩, decodes ⟨rfl, rfl⟩, decodes ⟨rfl, rfl⟩⟩

end Sys2Proof
end

section
/-! The turns of the agents (R59): the word an agent forms is the one its row encodes to, so its turn is that row; where it forms none,
its turn changes nothing. -/

namespace Sys2Proof.Machine

/-! ## A turn that takes a row, and one that takes none -/

/-- The turn whose word is a row's takes the row. -/
theorem step_takes {s : State} {ev : Event} {rest : List Event} {i : Instr} (hl : s.cfg.legal = true)
    (hi : s.inbox = ev :: rest) (hc : ev.isCycle = false) (wf : wellFormed s.cfg i = true)
    (word : s.fetch ev = .word (encode i).1 (encode i).2) : step s = exec i { s with inbox := rest } := by
  rw [step_turn s ev rest hl hi hc, word]
  simp only [runFetched, decode_encode wf]

theorem step_idles {s : State} {ev : Event} {rest : List Event} (hl : s.cfg.legal = true) (hi : s.inbox = ev :: rest)
    (hc : ev.isCycle = false) (idle : s.fetch ev = .idle) : step s = .next { s with inbox := rest } := by
  rw [step_turn s ev rest hl hi hc, idle]
  rfl

/-! ## PROD -/

theorem toNat_ofBool_eq_bit (b : Bool) : (BitVec.ofBool b).toNat = bit b := by cases b <;> rfl

theorem fetchProd_reset {s : State} (v : Bool) (d : Byte) (code : s.prod.state ≠ codeUnused) (out : s.prodOutOfReset = false) :
    s.fetchProd v d = .idle := by
  simp [State.fetchProd, code, out]

theorem fetchProd_no_byte {s : State} (d : Byte) (out : s.prodOutOfReset = true)
    (hs : s.prod.state = codeIdle ∨ s.prod.state = codeAccum) : s.fetchProd false d = .idle := by
  obtain hs | hs := hs <;> simp [State.fetchProd, hs, out, codeUnused, codeIdle, codeAccum, codeCommit]

/-- The word of a state that PROD's rows have, with a byte offered or in COMMIT. -/
theorem fetchProd_word {s : State} {v : Bool} (d : Byte) (out : s.prodOutOfReset = true) (code : s.prod.state ≠ codeUnused)
    (acts : s.prod.state = codeCommit ∨ v = true) : s.fetchProd v d = .word .prodIn (s.prodWord v d) := by
  rw [State.fetchProd, if_neg code, if_neg (by simp [out])]
  obtain hs | rfl := acts
  · rw [if_neg (by simp [hs])]
  · rw [if_neg (by simp)]

theorem setWidth_ne_codeUnused : ∀ st : BitVec 1, st.setWidth 2 ≠ codeUnused := by decide

/-- The state bit of an ACCEPT word is PROD's own. -/
theorem fetchProd_accept {s : State} (st : BitVec 1) (d : Byte) (out : s.prodOutOfReset = true)
    (hs : s.prod.state = st.setWidth 2) :
    s.fetchProd true d = .word .prodIn (encode (.accept st (.ofBool s.canCommit) d)).2 := by
  have code : s.prod.state ≠ codeUnused := hs ▸ setWidth_ne_codeUnused st
  rw [fetchProd_word d out code (.inr rfl), encode, toNat_ofBool_eq_bit, State.prodWord, hs]
  simp only [BitVec.toNat_setWidth, Nat.mod_eq_of_lt (show st.toNat < 2 ^ 2 by omega), bit, if_true, Nat.one_mul]

theorem fetchProd_commitOk {s : State} (v : Bool) (d : Byte) (out : s.prodOutOfReset = true) (hs : s.prod.state = codeCommit)
    (room : s.canCommit = true) : s.fetchProd v d = .word .prodIn (encode (.commitOk (.ofBool v) d)).2 := by
  rw [fetchProd_word d out (by rw [hs]; decide) (.inl hs), encode, toNat_ofBool_eq_bit, State.prodWord, hs, room]
  simp [codeCommit, bit]

theorem fetchProd_commitBp {s : State} (v : Bool) (d : Byte) (out : s.prodOutOfReset = true) (hs : s.prod.state = codeCommit)
    (full : s.canCommit = false) : s.fetchProd v d = .word .prodIn (encode (.commitBp (.ofBool v) d)).2 := by
  rw [fetchProd_word d out (by rw [hs]; decide) (.inl hs), encode, toNat_ofBool_eq_bit, State.prodWord, hs, full]
  simp [codeCommit, bit]

/-- Settles O4: in each state PROD forms the word of the one row named. -/
theorem prodTurnTakesItsRow : Obligations.ProdTurnTakesItsRow := by
  intro s v d rest hl hi
  refine ⟨fun code out => step_idles hl hi rfl (fetchProd_reset v d code out), fun out => ⟨?_, ?_, ?_, ?_, ?_⟩⟩
  · rintro hs rfl
    exact ⟨_, step_takes hl hi rfl rfl (fetchProd_accept 0#1 d out hs)⟩
  · rintro hs rfl
    exact ⟨_, step_takes hl hi rfl rfl (fetchProd_accept 1#1 d out hs)⟩
  · rintro hs rfl
    exact step_idles hl hi rfl (fetchProd_no_byte d out hs)
  · intro hs room
    exact ⟨_, step_takes hl hi rfl rfl (fetchProd_commitOk v d out hs room)⟩
  · intro hs full
    exact ⟨_, step_takes hl hi rfl rfl (fetchProd_commitBp v d out hs full)⟩

/-! ## CONS -/

theorem fetchCons_reset {s : State} (r : Bool) (code : s.cons.state ≠ codeUnused) (out : s.consOutOfReset = false) :
    s.fetchCons r = .idle := by
  simp [State.fetchCons, code, out]

theorem fetchCons_no_frame {s : State} (r : Bool) (out : s.consOutOfReset = true) (hs : s.cons.state = codeWaiting)
    (empty : s.framesReady = 0) : s.fetchCons r = .idle := by
  simp [State.fetchCons, hs, out, empty, codeUnused, codeWaiting, codeEmitting]

theorem fetchCons_dequeue {s : State} (r : Bool) (out : s.consOutOfReset = true) (hs : s.cons.state = codeWaiting)
    (ready : 1 ≤ s.framesReady) : s.fetchCons r = .word .consCtl (encode .dequeue).2 := by
  have frame : s.framesReady ≠ 0 := by omega
  simp [State.fetchCons, hs, out, frame, ready, codeUnused, codeWaiting, codeEmitting, State.consCtlWord, bit, encode]

theorem fetchCons_process {s : State} (r : Bool) (out : s.consOutOfReset = true) (hs : s.cons.state = codeProcessing) :
    s.fetchCons r = .word .consCtl (encode (.process (.ofBool (decide (1 ≤ s.framesReady))))).2 := by
  rw [encode, toNat_ofBool_eq_bit]
  simp [State.fetchCons, hs, out, codeUnused, codeWaiting, codeProcessing, codeEmitting, State.consCtlWord]

theorem fetchCons_not_ready {s : State} (out : s.consOutOfReset = true) (hs : s.cons.state = codeEmitting) :
    s.fetchCons false = .idle := by
  simp [State.fetchCons, hs, out, codeUnused, codeEmitting]

/-- In EMITTING with SINK ready the word carries the index and its byte. -/
theorem fetchCons_emitting {s : State} {b : Byte} (out : s.consOutOfReset = true) (hs : s.cons.state = codeEmitting)
    (hb : s.outByte s.cons.emitIdx.toNat = .ok b) :
    s.fetchCons true = .word .consOut (2 ^ 20 + s.cons.emitIdx.toNat * 2 ^ 9 + 2 ^ 8 + b.toNat) := by
  simp [State.fetchCons, hs, out, hb, codeUnused, codeEmitting, State.consOutWord]

/-- The delimiters' rows and the payload's: the byte at the index selects nothing more (R118). -/
theorem step_emits {s : State} {rest : List Event} {b : Byte} (hl : s.cfg.legal = true) (hi : s.inbox = .cons true :: rest)
    (out : s.consOutOfReset = true) (hs : s.cons.state = codeEmitting) (hb : s.outByte s.cons.emitIdx.toNat = .ok b) {i : Instr}
    (wf : wellFormed s.cfg i = true)
    (row : encode i = (.consOut, 2 ^ 20 + s.cons.emitIdx.toNat * 2 ^ 9 + 2 ^ 8 + b.toNat)) :
    step s = exec i { s with inbox := rest } :=
  step_takes hl hi rfl wf (by rw [row]; exact fetchCons_emitting out hs hb)

/-- Settles O5: in each state CONS forms the word of the one row named, or none. -/
theorem consTurnTakesItsRow : Obligations.ConsTurnTakesItsRow := by
  intro s r rest hl hi
  refine ⟨fun code out => step_idles hl hi rfl (fetchCons_reset r code out), fun out => ⟨?_, ?_, ?_, ?_, ?_, ?_, ?_⟩⟩
  · exact fun hs empty => step_idles hl hi rfl (fetchCons_no_frame r out hs empty)
  · exact fun hs ready => step_takes hl hi rfl rfl (fetchCons_dequeue r out hs ready)
  · exact fun hs => ⟨_, step_takes hl hi rfl rfl (fetchCons_process r out hs)⟩
  · rintro hs rfl
    exact step_idles hl hi rfl (fetchCons_not_ready out hs)
  · rintro hs rfl start
    exact step_emits (b := sofByte) hl hi out hs (by rw [start]; rfl) rfl (by rw [start]; rfl)
  · rintro hs rfl low high b hb
    exact step_emits hl hi out hs hb (by simp [wellFormed, BitVec.le_def, low, high]) rfl
  · rintro hs rfl last
    exact step_emits (b := eofByte) hl hi out hs (by rw [last]; rfl) rfl (by rw [last]; rfl)

/-! ## SYNC_H, SYNC_T and the reset event -/

theorem grayOf_lt {w b : Nat} (h : b < 2 ^ w) : grayOf b < 2 ^ w :=
  Nat.xor_lt_two_pow h (Nat.lt_of_le_of_lt (Nat.shiftRight_le b 1) h)

/-- The Gray code of a pointer is a word of the pointer width. -/
theorem grayOf_lt_width {p : Params} (hl : p.legal = true) {b : Nat} (h : b < p.slots) : grayOf b < 2 ^ p.fptrW := by
  obtain ⟨w, -, hslots, hwidth, -⟩ := legal_ring hl
  rw [hwidth]
  exact grayOf_lt (hslots ▸ h)

/-- Settles O6: the pointers' codes are words of the width, and a reset event's word is RESET's. -/
theorem syncAndResetTurnsTakeTheirRows : Obligations.SyncAndResetTurnsTakeTheirRows := by
  intro s rest hl
  refine ⟨fun hi out range => ?_, fun hi out range => ?_, fun hi => step_takes hl hi rfl rfl rfl⟩
  · exact step_takes hl hi rfl (decide_eq_true (grayOf_lt_width hl range)) (if_pos out)
  · exact step_takes hl hi rfl (decide_eq_true (grayOf_lt_width hl range)) (if_pos out)

end Sys2Proof.Machine
end

section
/-! NARROW truncates toward zero and wraps (R93). -/

namespace Sys2Proof.Machine

theorem execNarrow_of_ok {y : F32} {v : Sample} (s : State) (h : narrowWord y = .ok v) :
    exec (.narrow y) s = .next (s.returning (.sample v)) := by
  rw [exec, execNarrow, h]; rfl

theorem execNarrow_of_error {y : F32} {f : Fault} (s : State) (h : narrowWord y = .error f) :
    exec (.narrow y) s = .fault f := by
  rw [exec, execNarrow, h]; rfl

/-- The integer part of a finite magnitude, in units of 2^-149. -/
theorem units_shiftRight (y : F32) : funits y >>> 149 = funits y / 2 ^ 149 := Nat.shiftRight_eq_div_pow _ _

theorem narrowWord_in_range {y : F32} (hf : finite y = true) (h : funits y < 2 ^ 180) :
    narrowWord y = .ok (BitVec.ofInt 16 (truncInt y)) := by
  rw [narrowWord, if_pos hf, if_neg (by rw [units_shiftRight]; omega)]

theorem narrowWord_beyond {y : F32} (hf : finite y = true) (h : 2 ^ 180 ≤ funits y) : narrowWord y = .error .narrowRange := by
  rw [narrowWord, if_pos hf, if_pos (by rw [units_shiftRight]; omega)]

theorem narrowWord_nonfinite {y : F32} (hf : finite y = false) : narrowWord y = .error .nonFinite := by
  rw [narrowWord, if_neg (by simp [hf])]

theorem truncInt_natAbs (y : F32) : (truncInt y).natAbs = funits y / 2 ^ 149 := by
  rw [truncInt, units_shiftRight]
  split <;> simp only [Int.natAbs_neg, Int.natAbs_natCast]

/-- Truncation does not change the sign. -/
theorem truncInt_mul_fvalue (y : F32) : 0 ≤ truncInt y * fvalue y := by
  rw [truncInt, fvalue]
  split
  · rw [neg_mul_neg]; positivity
  · positivity

/-- The 16 low bits of an integer, read as a Sample. -/
theorem toInt_ofInt_sample (t : Int) : (BitVec.ofInt 16 t).toInt = (t + 32768) % 65536 - 32768 := by
  rw [BitVec.toInt_ofInt, Int.bmod_def]
  split <;> omega

/-- Settles O27: in range the word narrows to its truncated value, and beyond it to a fault. -/
theorem narrowTruncatesAndWraps : Obligations.NarrowTruncatesAndWraps := by
  intro y s
  refine ⟨fun hf h => ⟨truncInt y, _, ?_, ?_, truncInt_mul_fvalue y, toInt_ofInt_sample _,
      execNarrow_of_ok s (narrowWord_in_range hf h)⟩,
    fun hf h => execNarrow_of_error s (narrowWord_beyond hf h), fun hf => execNarrow_of_error s (narrowWord_nonfinite hf)⟩
  all_goals rw [truncInt_natAbs]; omega

end Sys2Proof.Machine
end

section
/-! The twiddles of a stage and their powers (R72, R75, R76): the recurrence is CMUL's product, and every power a stage uses has modulus
at most 1. -/

namespace Sys2Proof.Machine

/-! ## What the rows answer -/

theorem exec_cmul_eq_next {a b : Cplx} {s t : State} :
    exec (.cmul a b) s = .next t ↔ ∃ z, cmul a b = .ok z ∧ s.returning (.complex z) = t := by
  simp only [exec, execCmul, finish_eq_next, bind_eq_ok, pure_eq_ok]

theorem exec_stageTw_in_range {st : BitVec 4} (s : State) (h1 : 1 ≤ st.toNat) (h8 : st.toNat ≤ 8) {w : Cplx}
    (h : stageTwiddle st.toNat = .ok w) : exec (.stageTw st) s = .next (s.returning (.complex w)) := by
  rw [exec, execStageTw, if_pos (by simp [BitVec.le_def, h1, h8]), h]; rfl

theorem exec_stageTw_refused {st : BitVec 4} (s : State) (h : st.toNat < 1 ∨ 8 < st.toNat) :
    exec (.stageTw st) s = .refused .badOperand := by
  rw [exec, execStageTw, if_neg (by simp only [BitVec.le_def, BitVec.toNat_ofNat]; omega)]

/-! ## The eight stage twiddles -/

/-- The stage twiddles as `95_test_vectors.md` §3 lists them. -/
def listedTwiddles : List Cplx :=
  [⟨0xBF800000#32, 0x80000000#32⟩, ⟨0x00000000#32, 0xBF800000#32⟩, ⟨0x3F3504F3#32, 0xBF3504F3#32⟩,
    ⟨0x3F6C8110#32, 0xBEC3ED2C#32⟩, ⟨0x3F7B12E9#32, 0xBE47C446#32⟩, ⟨0x3F7EC219#32, 0xBDC8BB67#32⟩,
    ⟨0x3F7FAF8A#32, 0xBD48FA14#32⟩, ⟨0x3F7FE9DB#32, 0xBCC9086E#32⟩]

theorem stageTwiddle_stages : (List.range' 1 8).map stageTwiddle = listedTwiddles.map .ok := by decide +kernel

theorem stageTwiddle_listed {st : Nat} (h1 : 1 ≤ st) (h8 : st ≤ 8) :
    ∃ w, listedTwiddles[st - 1]? = some w ∧ stageTwiddle st = .ok w := by
  have h := congrArg (·[st - 1]?) stageTwiddle_stages
  simp only [List.getElem?_map, List.getElem?_range' (show st - 1 < 8 by omega), Option.map_some, Nat.one_mul,
    Nat.add_sub_cancel' h1] at h
  obtain ⟨w, hw, hst⟩ := Option.map_eq_some_iff.1 h.symm
  exact ⟨w, hw, hst.symm⟩

/-! ## The powers of a stage's twiddle -/

/-- Finite parts and a modulus of at most 1, as a test. -/
def inUnitDisc (z : Cplx) : Bool :=
  finite z.re && finite z.im && decide (fvalue z.re * fvalue z.re + fvalue z.im * fvalue z.im ≤ 2 ^ 298)

theorem inUnitDisc_iff (z : Cplx) : inUnitDisc z = true ↔ finite z.re = true ∧ finite z.im = true ∧
    fvalue z.re * fvalue z.re + fvalue z.im * fvalue z.im ≤ 2 ^ 298 := by
  simp only [inUnitDisc, Bool.and_eq_true, decide_eq_true_eq, and_assoc]

/-- Whether `w` and the `n` powers after it answer in the unit disc. -/
def powersInDisc (wm : Cplx) : Nat → Cplx → Bool
  | 0, w => inUnitDisc w
  | n + 1, w => inUnitDisc w && match cmul w wm with
    | .error _ => false
    | .ok z => powersInDisc wm n z

/-- What the test says of the recurrence of R75. -/
theorem twiddlePower_of_powersInDisc {wm : Cplx} {n k : Nat} {w : Cplx} (hw : twiddlePower wm k = .ok w)
    (h : powersInDisc wm n w = true) (j : Nat) (hj : j ≤ n) :
    ∃ z, twiddlePower wm (k + j) = .ok z ∧ inUnitDisc z = true := by
  induction n generalizing k w j with
  | zero =>
    obtain rfl : j = 0 := by omega
    exact ⟨w, hw, h⟩
  | succ n ih =>
    rw [powersInDisc, Bool.and_eq_true] at h
    obtain ⟨disc, rest⟩ := h
    cases j with
    | zero => exact ⟨w, hw, disc⟩
    | succ j =>
      split at rest
      · cases rest
      next z hz =>
        have next : twiddlePower wm (k + 1) = .ok z := by rw [twiddlePower, hw]; exact hz
        rw [show k + (j + 1) = k + 1 + j by omega]
        exact ih next rest j (by omega)

/-- Whether a stage's twiddle answers and its powers below `n` do so in the unit disc. -/
def twiddleInDisc (n : Nat) : Except Fault Cplx → Bool
  | .error _ => false
  | .ok wm => powersInDisc wm (n - 1) cone

/-- R76 has no slack: rounding must not carry any of the 255 powers out of the disc, so they are evaluated. -/
theorem twiddleInDisc_stages :
    ((List.range' 1 8).all fun st => twiddleInDisc (2 ^ (st - 1)) (stageTwiddle st)) = true := by decide +kernel

theorem twiddlePower_inUnitDisc {st j : Nat} (h1 : 1 ≤ st) (h8 : st ≤ 8) {wm : Cplx} (hwm : stageTwiddle st = .ok wm)
    (hj : j < 2 ^ (st - 1)) : ∃ w, twiddlePower wm j = .ok w ∧ inUnitDisc w = true := by
  have test := List.all_eq_true.1 twiddleInDisc_stages st (by simp; omega)
  rw [hwm] at test
  have power := twiddlePower_of_powersInDisc (k := 0) (w := cone) rfl test j (Nat.le_sub_one_of_lt hj)
  rwa [Nat.zero_add] at power

/-- The power after `w` is the product CMUL returns. -/
theorem twiddlePower_succ_iff {wm w : Cplx} {j : Nat} (hw : twiddlePower wm j = .ok w) (z : Cplx) (s : State) :
    twiddlePower wm (j + 1) = .ok z ↔ exec (.cmul w wm) s = .next (s.returning (.complex z)) := by
  have power : twiddlePower wm (j + 1) = cmul w wm := by rw [twiddlePower, hw]; rfl
  rw [power, exec_cmul_eq_next]
  refine ⟨fun h => ⟨z, h, rfl⟩, fun ⟨z', h, e⟩ => ?_⟩
  obtain rfl : z' = z := FnResult.complex.inj (congrArg State.fnOut e)
  exact h

/-- Settles O13: the values and the disc are evaluated, the recurrence is that of `twiddlePower`. -/
theorem stageTwiddlesAndTheirPowers : Obligations.StageTwiddlesAndTheirPowers := by
  refine ⟨fun st s h1 h8 => ?_, fun wm => ⟨rfl, fun j w z s hw => twiddlePower_succ_iff hw z s⟩,
    fun st s h => exec_stageTw_refused s h⟩
  obtain ⟨w, listed, hw⟩ := stageTwiddle_listed h1 h8
  refine ⟨w, listed, hw, exec_stageTw_in_range s h1 h8 hw, fun j hj => ?_⟩
  obtain ⟨z, hz, disc⟩ := twiddlePower_inUnitDisc h1 h8 hw hj
  exact ⟨z, hz, (inUnitDisc_iff z).1 disc⟩

/-! ## BUTTERFLY -/

theorem cmul_eq_ok {a b z : Cplx} : cmul a b = .ok z ↔ ∃ rr ii ri ir re im,
    fmul a.re b.re = .ok rr ∧ fmul a.im b.im = .ok ii ∧ fmul a.re b.im = .ok ri ∧ fmul a.im b.re = .ok ir ∧
      fsub rr ii = .ok re ∧ fadd ri ir = .ok im ∧ ⟨re, im⟩ = z := by
  simp only [cmul, bind_eq_ok, pure_eq_ok]
  constructor
  · rintro ⟨rr, hrr, ii, hii, re, hre, ri, hri, ir, hir, im, him, hz⟩
    exact ⟨rr, ii, ri, ir, re, im, hrr, hii, hri, hir, hre, him, hz⟩
  · rintro ⟨rr, ii, ri, ir, re, im, hrr, hii, hri, hir, hre, him, hz⟩
    exact ⟨rr, hrr, ii, hii, re, hre, ri, hri, ir, hir, im, him, hz⟩

/-- The order of the factors does not change a product that answers (R73). -/
theorem cmul_swap {a b z : Cplx} (h : cmul a b = .ok z) : cmul b a = .ok z := by
  obtain ⟨rr, ii, ri, ir, re, im, hrr, hii, hri, hir, hre, him, hz⟩ := cmul_eq_ok.1 h
  exact cmul_eq_ok.2 ⟨rr, ii, ir, ri, re, im, (fmul_comm ..).trans hrr, (fmul_comm ..).trans hii,
    (fmul_comm ..).trans hir, (fmul_comm ..).trans hri, hre, (fadd_comm ..).trans him, hz⟩

theorem butterflyPair_eq_ok {w even odd : Cplx} {r : Cplx × Cplx} : butterflyPair w even odd = .ok r ↔
    ∃ z a b, cmul w odd = .ok z ∧ cadd even z = .ok a ∧ csub even z = .ok b ∧ (a, b) = r := by
  simp only [butterflyPair, bind_eq_ok, pure_eq_ok]
  exact ⟨fun ⟨z, hz, a, ha, b, hb, hr⟩ => ⟨z, a, b, hz, ha, hb, hr⟩, fun ⟨z, a, b, hz, ha, hb, hr⟩ => ⟨z, hz, a, ha, b, hb, hr⟩⟩

theorem atMost_mono {m n : Nat} (h : m ≤ n) {a : F32} (ha : atMost m a) : atMost n a := by
  obtain ⟨fa, ua⟩ := ha
  exact ⟨fa, ua.trans (Nat.pow_le_pow_right (by decide) (by omega))⟩

theorem bothAtMost_mono {m n : Nat} (h : m ≤ n) {z : Cplx} (hz : bothAtMost m z) : bothAtMost n z := by
  obtain ⟨hre, him⟩ := hz
  exact ⟨atMost_mono h hre, atMost_mono h him⟩

theorem cadd_answers {n : Nat} {a b : Cplx} (ha : bothAtMost n a) (hb : bothAtMost n b) (h : n ≤ 126) :
    ∃ z, cadd a b = .ok z := by
  obtain ⟨are, aim⟩ := ha
  obtain ⟨bre, bim⟩ := hb
  obtain ⟨re, hre, -⟩ := fadd_atMost are bre h
  obtain ⟨im, him, -⟩ := fadd_atMost aim bim h
  exact ⟨⟨re, im⟩, by simp only [cadd, bind_eq_ok, pure_eq_ok]; exact ⟨re, hre, im, him, rfl⟩⟩

theorem csub_answers {n : Nat} {a b : Cplx} (ha : bothAtMost n a) (hb : bothAtMost n b) (h : n ≤ 126) :
    ∃ z, csub a b = .ok z := by
  obtain ⟨are, aim⟩ := ha
  obtain ⟨bre, bim⟩ := hb
  obtain ⟨re, hre, -⟩ := fadd_atMost are (atMost_fneg bre) h
  obtain ⟨im, him, -⟩ := fadd_atMost aim (atMost_fneg bim) h
  exact ⟨⟨re, im⟩, by simp only [csub, fsub, bind_eq_ok, pure_eq_ok]; exact ⟨re, hre, im, him, rfl⟩⟩

theorem funits_le_of_square {a : F32} {x : Int} (hx : 0 ≤ x) (h : fvalue a * fvalue a + x ≤ 2 ^ 298) :
    funits a ≤ 2 ^ (149 + 0) := by
  have square : fvalue a * fvalue a ≤ 2 ^ 149 * 2 ^ 149 := by omega
  have := Int.natAbs_le_iff_mul_self_le.2 square
  rwa [fvalue_natAbs] at this

theorem bothAtMost_of_inUnitDisc {z : Cplx} (h : inUnitDisc z = true) : bothAtMost 0 z := by
  obtain ⟨fre, fim, modulus⟩ := (inUnitDisc_iff z).1 h
  exact ⟨⟨fre, funits_le_of_square (mul_self_nonneg _) modulus⟩,
    ⟨fim, funits_le_of_square (mul_self_nonneg _) (by rwa [add_comm])⟩⟩

/-- A twiddle of modulus at most 1 keeps a butterfly of moderate bins in the finite range. -/
theorem butterfly_answers {w even odd : Cplx} (hw : inUnitDisc w = true) (he : bothAtMost 60 even) (ho : bothAtMost 60 odd) :
    ∃ z a b, cmul w odd = .ok z ∧ cadd even z = .ok a ∧ csub even z = .ok b := by
  obtain ⟨z, hz, bz⟩ := cmul_bothAtMost ho (bothAtMost_of_inUnitDisc hw) (by decide)
  obtain ⟨a, ha⟩ := cadd_answers (bothAtMost_mono (by decide) he) bz (by decide)
  obtain ⟨b, hb⟩ := csub_answers (bothAtMost_mono (by decide) he) bz (by decide)
  exact ⟨z, a, b, cmul_swap hz, ha, hb⟩

theorem butterflyInRange_bounds {st : BitVec 4} {p : BitVec 8} {j : BitVec 7} (h : butterflyInRange st p j = true) :
    1 ≤ st.toNat ∧ st.toNat ≤ 8 ∧ j.toNat < 2 ^ (st.toNat - 1) := by
  simp only [butterflyInRange, Bool.and_eq_true, decide_eq_true_eq, BitVec.le_def, BitVec.toNat_ofNat] at h
  obtain ⟨⟨⟨h1, h8⟩, hj⟩, -⟩ := h
  exact ⟨h1, h8, hj⟩

/-- BUTTERFLY in range, with all its operands: both bins from their old values. -/
theorem exec_butterfly_in_range {st : BitVec 4} {p : BitVec 8} {j : BitVec 7} {s : State}
    (range : butterflyInRange st p j = true) {wm w even odd : Cplx} (hwm : stageTwiddle st.toNat = .ok wm)
    (hw : twiddlePower wm j.toNat = .ok w) (he : readCell s.work.x p.toNat = some even)
    (ho : readCell s.work.x (p.toNat + 2 ^ (st.toNat - 1)) = some odd) {r : Cplx × Cplx}
    (hr : butterflyPair w even odd = .ok r) :
    exec (.butterfly st p j) s = .next ((s.withWork { s.work with
      x := writeCell (writeCell s.work.x p.toNat r.1) (p.toNat + 2 ^ (st.toNat - 1)) r.2 }).returning (.complex r.1)) := by
  rw [exec, execButterfly, if_pos range, finish_eq_next]
  simp only [bind_eq_ok, pure_eq_ok]
  exact ⟨wm, hwm, w, hw, even, readElem_of_readCell he, odd, readElem_of_readCell ho, r, hr, rfl⟩

/-- Settles O16: the powers answer, and the two writes of the pair leave every other bin. -/
theorem butterflyUpdatesItsTwoBins : Obligations.ButterflyUpdatesItsTwoBins := by
  intro st p j s
  refine ⟨fun range => ?_, fun out => by rw [exec, execButterfly, if_neg (by simp [out])]⟩
  obtain ⟨h1, h8, hj⟩ := butterflyInRange_bounds range
  obtain ⟨wm, -, hwm⟩ := stageTwiddle_listed h1 h8
  obtain ⟨w, hw, disc⟩ := twiddlePower_inUnitDisc h1 h8 hwm hj
  refine ⟨wm, w, hwm, hw, fun u o hu ho => ⟨butterfly_answers disc, fun z a b hz ha hb => ?_⟩⟩
  have hne : p.toNat + 2 ^ (st.toNat - 1) ≠ p.toNat := by
    have := Nat.two_pow_pos (st.toNat - 1)
    omega
  refine ⟨_, exec_butterfly_in_range range hwm hw hu ho (butterflyPair_eq_ok.2 ⟨z, a, b, hz, ha, hb, rfl⟩), ?_, ?_, ?_, rfl⟩
  · simp [readCell_writeCell_other _ _ hne]
  · simp
  · intro k hk hk'
    simp [readCell_writeCell_other _ _ (Ne.symm hk), readCell_writeCell_other _ _ (Ne.symm hk')]

end Sys2Proof.Machine
end

section
/-! The handshakes (R49, R108, R120): which edges transfer a byte, that such an edge is its row, and which edges change nothing but the
registers of the crossing. -/

namespace Sys2Proof.Machine

/-! ## Edges that answer -/

theorem step_clkIn {s a : State} {v : Bool} {d : Byte} {rest : List Event} (hl : s.cfg.legal = true)
    (hi : s.inbox = .clkIn v d :: rest) (out : s.prodOutOfReset = true)
    (h : ({ s with inbox := rest } : State).prodEdge v d = .ok a) : step s = .next (a.prodSynced { s with inbox := rest }) :=
  (step_event s _ rest hl hi).trans <| (clkInEdge_eq_next v d _ _).2 (.inr (.inr ⟨out, a, h, rfl⟩))

theorem step_clkProc {s b : State} {r : Bool} {rest : List Event} (hl : s.cfg.legal = true)
    (hi : s.inbox = .clkProc r :: rest) (out : s.consOutOfReset = true)
    (h : ({ s with inbox := rest } : State).consEdge r = .ok b) : step s = .next (b.consSynced { s with inbox := rest }) :=
  (step_event s _ rest hl hi).trans <| (clkProcEdge_eq_next r _ _).2 (.inr (.inr ⟨out, b, h, rfl⟩))

/-! ## Bytes taken -/

theorem prodOutOfReset_of_inReady {s : State} (h : s.inReady = true) : s.prodOutOfReset = true :=
  (Bool.and_eq_true_iff.1 h).1

/-- The state bit that ACCEPT's word carries (R60). -/
theorem stateBit_of_inReady {s : State} (h : s.inReady = true) : ∃ st : BitVec 1, s.prod.state = st.setWidth 2 := by
  simp only [State.inReady, Bool.and_eq_true, Bool.or_eq_true, beq_iff_eq] at h
  obtain ⟨-, e | e⟩ := h
  · exact ⟨0#1, e⟩
  · exact ⟨1#1, e⟩

/-- An edge of PROD takes a byte exactly with `in_valid` and `in_ready` (R49 item 1). -/
theorem prodEdge_inLog {s a : State} {v : Bool} {d : Byte} (h : s.prodEdge v d = .ok a) :
    a.inLog = if v && s.inReady then s.inLog ++ [d] else s.inLog := by
  by_cases hs : s.prod.state = codeCommit
  · have busy : s.inReady = false := Bool.eq_false_iff.2 fun ready => (inReady_state s ready).2 hs
    rw [busy, Bool.and_false, if_neg (by decide)]
    cases prodEdge_move s a v d h with
    | accepts _ ready => rw [busy] at ready; cases ready
    | _ => simp
  · have code : s.prod.state ≠ codeUnused := fun e => by simp [State.prodEdge, e] at h
    simp only [State.prodEdge, if_neg code, if_neg hs] at h
    split at h
    next taken =>
      split at h <;> cases h
      simp [taken]
    next kept => cases h; rw [if_neg kept]

theorem clkInEdge_inLog {s t : State} {v : Bool} {d : Byte} (h : clkInEdge v d s = .next t) :
    t.inLog = if v && s.inReady then s.inLog ++ [d] else s.inLog := by
  obtain ⟨line, rfl⟩ | ⟨-, out, rfl⟩ | ⟨-, a, ha, rfl⟩ := (clkInEdge_eq_next v d s t).1 h
  · simp [State.inReady, State.prodOutOfReset, line]
  · simp [State.inReady, out]
  · exact (prodEdge_inLog ha :)

/-- The turn that takes a byte is ACCEPT (R108). -/
theorem step_accepts {s : State} {d : Byte} {rest : List Event} (hl : s.cfg.legal = true) (hi : s.inbox = .prod true d :: rest)
    (ready : s.inReady = true) (count : s.prod.stageCnt.toNat < 512) :
    step s = .next (({ s with inbox := rest } : State).accepted d) := by
  obtain ⟨st, hs⟩ := stateBit_of_inReady ready
  rw [step_takes hl hi rfl (i := .accept st (.ofBool s.canCommit) d) rfl
    (fetchProd_accept st d (prodOutOfReset_of_inReady ready) hs), exec,
    execAccept_of_ready (s := { s with inbox := rest }) _ d ready hs, if_neg]
  simpa [BitVec.le_def] using count

/-! ## Bytes sent -/

theorem consEdge_emitting {s : State} (r : Bool) (hs : s.cons.state = codeEmitting) : s.consEdge r = s.emitEdge r := by
  simp [State.consEdge, hs, codeEmitting, codeUnused, codeWaiting, codeProcessing]

theorem emitEdge_sendsLast {s : State} (offered : s.cons.outValid = true) (last : s.cons.emitIdx = 513#10) :
    s.emitEdge true = .ok { s with
      cons := { s.cons with outValid := false, emitIdx := 0#10, state := codeWaiting }
      emitted := s.emitted ++ [s.cons.outData] } := by
  simp [State.emitEdge, offered, last]

theorem emitEdge_sends {s b : State} (offered : s.cons.outValid = true) (more : s.cons.emitIdx ≠ 513#10) :
    s.emitEdge true = .ok b ↔ ∃ x, s.outByte (s.cons.emitIdx.toNat + 1) = .ok x ∧ { s with
      cons := { s.cons with emitIdx := s.cons.emitIdx + 1#10, outData := x }
      emitted := s.emitted ++ [s.cons.outData] } = b := by
  simp [State.emitEdge, offered, more, map_eq_ok]

/-- Outside EMITTING no move of CONS sends a byte. -/
theorem ConsumerMove.emitted_kept {s b : State} (m : ConsumerMove s b) (hs : s.cons.state ≠ codeEmitting) :
    b.emitted = s.emitted := by
  cases m with
  | emits _ he | sends _ he | sendsLast he => exact absurd he hs
  | runs n u _ hu => exact (pipeOps_pipelineOnly hu).emitted
  | _ => simp

/-- An edge of CONS sends the byte it offers exactly with `out_valid` and `out_ready` (R49 item 4), and keeps an offer that is not
taken (item 5). -/
theorem consEdge_emitted {s b : State} {r : Bool} (offered : s.cons.outValid = true ↔ s.cons.state = codeEmitting)
    (h : s.consEdge r = .ok b) :
    (s.cons.outValid = true → r = true → b.emitted = s.emitted ++ [s.cons.outData]) ∧
    (s.cons.outValid = false ∨ r = false → b.emitted = s.emitted ∧
      (s.cons.outValid = true → b.cons.outValid = true ∧ b.cons.outData = s.cons.outData)) := by
  by_cases hs : s.cons.state = codeEmitting
  · refine ⟨fun valid ready => ?_, fun kept => ?_⟩
    · subst ready
      rw [consEdge_emitting true hs] at h
      by_cases last : s.cons.emitIdx = 513#10
      · rw [emitEdge_sendsLast valid last] at h; cases h; rfl
      · obtain ⟨x, -, rfl⟩ := (emitEdge_sends valid last).1 h; rfl
    · rw [consEdge_holds s r hs (by obtain e | e := kept <;> simp [e])] at h
      cases h
      exact ⟨rfl, fun valid => ⟨valid, rfl⟩⟩
  · have silent : s.cons.outValid = false := Bool.eq_false_iff.2 (mt offered.1 hs)
    exact ⟨fun valid => absurd valid (by simp [silent]),
      fun _ => ⟨(consEdge_move s b r h).emitted_kept hs, fun valid => absurd valid (by simp [silent])⟩⟩

theorem outByte_index_le {s : State} {e : Nat} {b : Byte} (h : s.outByte e = .ok b) : e ≤ 513 := by
  refine Nat.le_of_not_lt fun above => ?_
  rw [State.outByte, if_neg (by omega), if_neg (by omega), if_pos above] at h
  cases h

/-- The turn that sends a byte is the EMIT row of its index (R118). -/
theorem step_sends {s : State} {b : Byte} {rest : List Event} (hl : s.cfg.legal = true) (hi : s.inbox = .cons true :: rest)
    (out : s.consOutOfReset = true) (hs : s.cons.state = codeEmitting) (hb : s.outByte s.cons.emitIdx.toNat = .ok b) :
    step s = .next (({ s with inbox := rest } : State).emitting b) := by
  by_cases start : s.cons.emitIdx = 0#10
  · obtain rfl : sofByte = b := by rw [start] at hb; exact Except.ok.inj hb
    rw [step_emits hl hi out hs hb (i := .emitSof) rfl (by rw [start]; rfl)]
    exact (execEmitSof_eq_next _ _).2 ⟨out, hs, start, rfl⟩
  by_cases last : s.cons.emitIdx = 513#10
  · obtain rfl : eofByte = b := by rw [last] at hb; exact Except.ok.inj hb
    rw [step_emits hl hi out hs hb (i := .emitEof) rfl (by rw [last]; rfl)]
    exact (execEmitEof_eq_next _ _).2 ⟨out, hs, last, rfl⟩
  have range := outByte_index_le hb
  have low : 1#10 ≤ s.cons.emitIdx := by bv_omega
  have high : s.cons.emitIdx ≤ 512#10 := by bv_omega
  rw [step_emits hl hi out hs hb (i := .emitData s.cons.emitIdx b) (by simp [wellFormed, low, high]) rfl]
  exact (execEmitData_eq_next _ _ _ _).2 ⟨out, hs, rfl, low, high, hb, rfl⟩

/-- An edge that sends and the turn that sends leave CONS alike, but for the crossing. -/
theorem emitEdge_eq_emitting {s : State} (offered : s.cons.outValid = true)
    (next : s.cons.emitIdx ≠ 513#10 → ∃ x, s.outByte (s.cons.emitIdx.toNat + 1) = .ok x) :
    s.emitEdge true = .ok (s.emitting s.cons.outData) := by
  by_cases last : s.cons.emitIdx = 513#10
  · rw [emitEdge_sendsLast offered last, State.emitting, if_pos last]
  · obtain ⟨x, hx⟩ := next last
    rw [emitEdge_sends offered last, State.emitting, if_neg last, State.nextOutData_of_outByte hx]
    exact ⟨x, hx, by rw [← offered]⟩

/-! ## The statement -/

/-- Settles O56: each clause is a case of PROD's or of CONS's edge. -/
theorem handshakesTransferExactlyOnce : Obligations.HandshakesTransferExactlyOnce := by
  refine ⟨fun s t v d rest hi h => ?_, fun s t r rest control hi h => ?_, fun s d rest hl ready count => ?_,
    fun s rest hl out hs offered hb next => ?_, fun s d rest hl hi ready => ?_, fun s r rest hl hi out => ⟨?_, ?_⟩⟩
  · exact clkInEdge_inLog (s := { s with inbox := rest }) (step_cycle hi rfl h).2
  · obtain ⟨line, rfl⟩ | ⟨-, reset, rfl⟩ | ⟨out, b, hb, rfl⟩ := (clkProcEdge_eq_next r _ t).1 (step_cycle hi rfl h).2
    · have reset : s.consOutOfReset = false := by simp [State.consOutOfReset, show s.rst.rstN = false from line]
      exact ⟨fun out => absurd out (by simp [reset]), fun _ => ⟨rfl, fun valid => ⟨valid, rfl⟩⟩⟩
    · exact ⟨fun out => absurd (reset.symm.trans out) (by decide), fun _ => ⟨rfl, fun valid => ⟨valid, rfl⟩⟩⟩
    · obtain ⟨sent, kept⟩ := consEdge_emitted (s := { s with inbox := rest }) control.offered hb
      exact ⟨fun _ => sent, fun h => kept (h.resolve_left fun reset => absurd (reset.symm.trans out) (by decide))⟩
  · exact ⟨_, _, step_clkIn hl rfl (prodOutOfReset_of_inReady ready) (prodEdge_accepts _ d ready count),
      step_accepts hl rfl ready count, rfl, rfl⟩
  · have range := outByte_index_le hb
    have edge := emitEdge_eq_emitting (s := { s with inbox := rest }) offered fun more => next (by bv_omega)
    have row := step_sends (s := { s with inbox := .cons true :: rest }) hl rfl out hs hb
    have sent := step_clkProc (s := { s with inbox := .clkProc true :: rest }) hl rfl out
      ((consEdge_emitting (s := { s with inbox := rest }) true hs).trans edge)
    exact ⟨_, _, sent, row, by simp, rfl⟩
  · exact ⟨_, step_clkIn hl hi (prodOutOfReset_of_inReady ready) (prodEdge_idles _ d ready), rfl⟩
  · rintro (⟨hs, idle, empty⟩ | ⟨hs, kept⟩)
    · exact ⟨_, step_clkProc hl hi out (consEdge_waits _ r hs idle empty), rfl⟩
    · exact ⟨_, step_clkProc hl hi out (consEdge_holds _ r hs (by obtain e | e := kept <;> simp [e])), rfl⟩
  · exact fun hs stall => ⟨_, step_clkProc hl hi out (consEdge_stalls _ r hs stall), rfl⟩

end Sys2Proof.Machine
end

section
/-! Small multiples of a power of two bound the binary32 operations: rounding passes no word, so it does not pass such a multiple.
With them every run of the pipeline stays in the finite range (R124). -/

namespace Sys2Proof.Machine

/-! ## Bounds that rounding keeps -/

/-- A finite value of at most `c · 2^n` units of 2^-149. -/
def UnitsWithin (c n : Nat) (a : F32) : Prop := finite a = true ∧ funits a ≤ c * 2 ^ n

theorem UnitsWithin.mono {c n d m : Nat} {a : F32} (h : UnitsWithin c n a) (le : c * 2 ^ n ≤ d * 2 ^ m) : UnitsWithin d m a :=
  ⟨h.1, h.2.trans le⟩

theorem UnitsWithin.neg {c n : Nat} {a : F32} (h : UnitsWithin c n a) : UnitsWithin c n (fneg a) := by
  simpa [UnitsWithin] using h

theorem UnitsWithin.abs {c n : Nat} {a : F32} (h : UnitsWithin c n a) : UnitsWithin c n (fabs a) := by
  simpa [UnitsWithin] using h

theorem UnitsWithin.natAbs {c n : Nat} {a : F32} (h : UnitsWithin c n a) : (fvalue a).natAbs ≤ c * 2 ^ n := by
  rw [fvalue_natAbs]; exact h.2

/-- A multiple of fewer than 24 bits is a word, and rounding does not pass it. -/
theorem roundUnits_le_multiple {neg : Bool} {m k c n : Nat} {w : F32} (h : roundUnits neg m k = .ok w) (hc : c < 2 ^ 24)
    (hm : m ≤ c * 2 ^ (n + k)) : funits w ≤ c * 2 ^ n := by
  have hp : roundPos m k ≤ n + k := by
    have hlog : m ≠ 0 → m.log2 < 24 + (n + k) := fun h0 => (Nat.log2_lt h0).2
      (hm.trans_lt (by rw [pow_add 2 24]; exact Nat.mul_lt_mul_of_pos_right hc (Nat.two_pow_pos _)))
    unfold roundPos
    rcases Nat.eq_zero_or_pos m with rfl | pos
    · simp
    · have := hlog pos.ne'; omega
  rw [(roundUnits_ok neg m k w h).2.2]
  calc roundShift m (roundPos m k) * 2 ^ (roundPos m k - k)
      ≤ c * 2 ^ (n + k - roundPos m k) * 2 ^ (roundPos m k - k) :=
        Nat.mul_le_mul_right _ (roundShift_le_of_le (by rwa [mul_assoc, ← pow_add, Nat.sub_add_cancel hp]))
    _ = c * 2 ^ n := by
        have := le_roundPos m k
        rw [mul_assoc, ← pow_add, show n + k - roundPos m k + (roundPos m k - k) = n by omega]

theorem multiple_lt_overflow {c n : Nat} (hc : c < 2 ^ 24) (hn : n ≤ 252) : c * 2 ^ n < 2 ^ 277 - 2 ^ 252 :=
  calc c * 2 ^ n ≤ 2 ^ 24 * 2 ^ 252 := Nat.mul_le_mul hc.le (Nat.pow_le_pow_right (by decide) hn)
    _ < 2 ^ 277 - 2 ^ 252 := by rw [← pow_add]; exact pow_lt_overflow (Nat.le_refl _)

theorem fmul_within {c n d : Nat} {a b : F32} (ha : UnitsWithin c n a) (hb : UnitsWithin d 149 b) (hc : c * d < 2 ^ 24)
    (hn : n ≤ 252) : ∃ w, fmul a b = .ok w ∧ UnitsWithin (c * d) n w := by
  obtain ⟨fa, ua⟩ := ha
  obtain ⟨fb, ub⟩ := hb
  have hm : funits a * funits b ≤ c * d * 2 ^ (n + 149) :=
    (Nat.mul_le_mul ua ub).trans_eq (by rw [pow_add]; ring)
  rw [fmul_rounds fa fb]
  obtain ⟨w, hw⟩ := (roundUnits_answers_iff (fsign a != fsign b) (stands_product (funits a * funits b))).2
    (lt_of_le_of_lt hm (by
      rw [pow_add, ← mul_assoc]; exact Nat.mul_lt_mul_of_pos_right (multiple_lt_overflow hc hn) (Nat.two_pow_pos _)))
  exact ⟨w, hw, (roundUnits_ok _ _ _ _ hw).1, roundUnits_le_multiple hw hc hm⟩

/-- A sum is bounded where its exact value is. -/
theorem fadd_of_natAbs_le {c n : Nat} {a b : F32} (fa : finite a = true) (fb : finite b = true)
    (h : (fvalue a + fvalue b).natAbs ≤ c * 2 ^ n) (hc : c < 2 ^ 24) (hn : n ≤ 252) :
    ∃ w, fadd a b = .ok w ∧ UnitsWithin c n w := by
  obtain ⟨w, hw⟩ := (fadd_answers_iff fa fb).2 (h.trans_lt (multiple_lt_overflow hc hn))
  obtain ⟨-, -, fw, zero, rounds⟩ := fadd_ok a b w hw
  refine ⟨w, hw, fw, ?_⟩
  by_cases h0 : fvalue a + fvalue b = 0
  · rw [zero h0]; exact Nat.zero_le _
  · exact roundUnits_le_multiple (rounds h0) hc h

theorem fadd_within {c d n : Nat} {a b : F32} (ha : UnitsWithin c n a) (hb : UnitsWithin d n b) (hc : c + d < 2 ^ 24)
    (hn : n ≤ 252) : ∃ w, fadd a b = .ok w ∧ UnitsWithin (c + d) n w :=
  fadd_of_natAbs_le ha.1 hb.1
    ((Int.natAbs_add_le _ _).trans (by rw [add_mul]; exact Nat.add_le_add ha.natAbs hb.natAbs)) hc hn

theorem fsub_within {c d n : Nat} {a b : F32} (ha : UnitsWithin c n a) (hb : UnitsWithin d n b) (hc : c + d < 2 ^ 24)
    (hn : n ≤ 252) : ∃ w, fsub a b = .ok w ∧ UnitsWithin (c + d) n w := fadd_within ha hb.neg hc hn

/-- A quotient with its sticky bit is no more than a bound of the exact quotient. -/
theorem sticky_quotient_le {x d b : Nat} (h : x ≤ b * d) : 2 * (x / d) + (if x % d = 0 then 0 else 1) ≤ 2 * b := by
  have hle : x / d ≤ b := Nat.div_le_of_le_mul (by rwa [mul_comm])
  split
  next => omega
  next rest =>
    have : x / d ≠ b := fun e => rest (by
      have := Nat.div_add_mod x d
      rw [e, mul_comm d] at this
      omega)
    omega

/-- A divisor of at least `2^j` takes `j` from the exponent of the bound. -/
theorem fdiv_within {c n j : Nat} {a b : F32} (ha : UnitsWithin c (n + j) a) (fb : finite b = true)
    (hb : 2 ^ (149 + j) ≤ funits b) (hc : c < 2 ^ 24) (hn : n ≤ 252) : ∃ w, fdiv a b = .ok w ∧ UnitsWithin c n w := by
  obtain ⟨fa, ua⟩ := ha
  have pos : 0 < funits b := (Nat.two_pow_pos _).trans_le hb
  have range : funits a * 2 ^ 149 ≤ c * 2 ^ n * funits b :=
    calc funits a * 2 ^ 149 ≤ c * 2 ^ (n + j) * 2 ^ 149 := Nat.mul_le_mul_right _ ua
      _ = c * 2 ^ n * 2 ^ (149 + j) := by rw [pow_add, pow_add 2 149 j]; ring
      _ ≤ c * 2 ^ n * funits b := Nat.mul_le_mul_left _ hb
  have quotient : funits a <<< 151 ≤ c * 2 ^ (n + 2) * funits b :=
    calc funits a <<< 151 = 4 * (funits a * 2 ^ 149) := by rw [Nat.shiftLeft_eq, pow_add 2 149 2]; ring
      _ ≤ 4 * (c * 2 ^ n * funits b) := Nat.mul_le_mul_left 4 range
      _ = c * 2 ^ (n + 2) * funits b := by rw [pow_add 2 n 2]; ring
  have hm := sticky_quotient_le quotient
  rw [show 2 * (c * 2 ^ (n + 2)) = c * 2 ^ (n + 3) by rw [pow_succ _ (n + 2)]; ring] at hm
  rw [fdiv_rounds fa fb pos.ne']
  obtain ⟨w, hw⟩ := (roundUnits_answers_iff (fsign a != fsign b) (stands_quotient (funits a) (funits b) pos)).2
    (range.trans_lt (Nat.mul_lt_mul_of_pos_right (multiple_lt_overflow hc hn) pos))
  exact ⟨w, hw, (roundUnits_ok _ _ _ _ hw).1, roundUnits_le_multiple hw hc hm⟩

/-! ## Integers -/

theorem roundShift_of_dvd {m p : Nat} (h : 2 ^ p ∣ m) : roundShift m p * 2 ^ p = m := by
  have pos := Nat.two_pow_pos p
  rw [roundShift, Nat.mod_eq_zero_of_dvd h, if_neg (by omega), Nat.shiftRight_eq_div_pow, Nat.div_mul_cancel h]

theorem roundPos_le_of_lt {m n : Nat} (h : m < 2 ^ (24 + n)) : roundPos m 0 ≤ n := by
  unfold roundPos
  rcases Nat.eq_zero_or_pos m with rfl | pos
  · simp
  · have := (Nat.log2_lt pos.ne').2 h
    omega

/-- An integer of fewer than 24 bits is a word (R10). -/
theorem f32OfInt_within {c : Nat} {k : Int} (hk : k.natAbs ≤ c) (hc : c < 2 ^ 24) :
    ∃ w, f32OfInt k = .ok w ∧ UnitsWithin c 149 w ∧ fvalue w = k * 2 ^ 149 := by
  have units : k.natAbs <<< 149 = k.natAbs * 2 ^ 149 := Nat.shiftLeft_eq _ _
  have small : k.natAbs * 2 ^ 149 < 2 ^ (24 + 149) := by
    rw [pow_add]; exact Nat.mul_lt_mul_of_pos_right (hk.trans_lt hc) (Nat.two_pow_pos _)
  obtain ⟨w, hw⟩ := (roundUnits_answers_iff (decide (k < 0)) (stands_integer (k.natAbs <<< 149))).2 (by
    rw [units, mul_one]; exact multiple_lt_overflow (hk.trans_lt hc) (by decide))
  obtain ⟨fw, sign, value⟩ := roundUnits_ok _ _ _ _ hw
  have exact : 2 ^ roundPos (k.natAbs * 2 ^ 149) 0 ∣ k.natAbs * 2 ^ 149 :=
    (pow_dvd_pow 2 (roundPos_le_of_lt small)).trans (Nat.dvd_mul_left _ _)
  rw [units, Nat.sub_zero, roundShift_of_dvd exact] at value
  refine ⟨w, hw, ⟨fw, value.trans_le (Nat.mul_le_mul_right _ hk)⟩, ?_⟩
  rw [fvalue, sign, value, Nat.cast_mul, Int.natCast_natAbs]
  by_cases neg : k < 0
  · simp [neg, abs_of_neg neg]
  · simp [neg, abs_of_nonneg (not_lt.1 neg)]

end Sys2Proof.Machine
end

section
/-! The binary32 values of the pipeline stay in the finite range: the Samples widened, the cosine and sine of the phases (R65, R66, R79),
each stage of the transform (R75) and the output sums (R80). -/

namespace Sys2Proof.Machine

/-! ## Cosine and sine -/

theorem romImage_within : romImage.length = 360 ∧ ∀ w ∈ romImage, UnitsWithin 1 149 w := by
  have test : (romImage.length == 360 && romImage.all fun w => finite w && decide (funits w ≤ 1 * 2 ^ 149)) = true := by
    decide +kernel
  simpa [UnitsWithin] using test

theorem getElem?_mem_of_lt {α : Type} {l : List α} {i : Nat} (h : i < l.length) : ∃ a, l[i]? = some a ∧ a ∈ l :=
  ⟨l[i], List.getElem?_eq_getElem h, List.getElem_mem h⟩

theorem romWord_within {i : Nat} (hi : i < 360) : ∃ w, romWord i = .ok w ∧ UnitsWithin 1 149 w := by
  obtain ⟨len, all⟩ := romImage_within
  obtain ⟨w, hw, mem⟩ := getElem?_mem_of_lt (l := romImage) (len.symm ▸ hi)
  exact ⟨w, by rw [romWord, hw], all w mem⟩

theorem twoPi_within : UnitsWithin 7 149 twoPi ∧ 2 ^ (149 + 2) ≤ funits twoPi := by
  unfold UnitsWithin; decide

theorem halfPi_within : UnitsWithin 2 149 halfPi := by unfold UnitsWithin; decide

theorem f360_within : UnitsWithin 360 149 f360 := by unfold UnitsWithin; decide

theorem f256_le : finite f256 = true ∧ 2 ^ (149 + 8) ≤ funits f256 := by decide

theorem floorInt_natAbs_le {c : Nat} {a : F32} (h : UnitsWithin c 149 a) : (floorInt a).natAbs ≤ c := by
  have := h.natAbs
  unfold floorInt
  omega

/-- What is left above the floor is less than 1. -/
theorem sub_floorInt (a : F32) : (fvalue a + -(floorInt a * 2 ^ 149)).natAbs ≤ 1 * 2 ^ 149 := by
  unfold floorInt
  omega

/-- The interpolation of R65 between two words of the ROM, for angles of the pipeline's size. -/
theorem cosine_within {t : F32} (ht : UnitsWithin 16 149 t) : ∃ w, cosine t = .ok w ∧ UnitsWithin 3 149 w := by
  obtain ⟨twoPi_le, le_twoPi⟩ := twoPi_within
  obtain ⟨turns, hturns, bturns⟩ := fdiv_within (n := 147) ht.abs twoPi_le.1 le_twoPi (by decide) (by decide)
  obtain ⟨q, hq, bq, -⟩ := f32OfInt_within (floorInt_natAbs_le (bturns.mono (d := 4) (m := 149) (by decide))) (by decide)
  obtain ⟨whole, hwhole, bwhole⟩ := fmul_within bq twoPi_le (by decide) (by decide)
  obtain ⟨r, hr, br⟩ := fsub_within ht.abs bwhole (by decide) (by decide)
  obtain ⟨part, hpart, bpart⟩ := fdiv_within (n := 147) br twoPi_le.1 le_twoPi (by decide) (by decide)
  obtain ⟨x, hx, bx⟩ := fmul_within bpart f360_within (by decide) (by decide)
  obtain ⟨i0, hi0, bi0, vi0⟩ := f32OfInt_within (floorInt_natAbs_le (bx.mono (d := 3960) (m := 149) (by decide))) (by decide)
  obtain ⟨f, hf, bf⟩ := fadd_of_natAbs_le bx.1 bi0.neg.1 (by rw [fvalue_fneg, vi0]; exact sub_floorInt x) (by decide) (by decide)
  obtain ⟨t0, ht0, bt0⟩ := romWord_within (i := (floorInt x % 360).toNat) (by omega)
  obtain ⟨t1, ht1, bt1⟩ := romWord_within (Nat.mod_lt ((floorInt x % 360).toNat + 1) (by decide : 0 < 360))
  obtain ⟨slope, hslope, bslope⟩ := fsub_within bt1 bt0 (by decide) (by decide)
  obtain ⟨rise, hrise, brise⟩ := fmul_within bf (bslope.mono (d := 2) (by decide)) (by decide) (by decide)
  obtain ⟨w, hw, bw⟩ := fadd_within bt0 brise (by decide) (by decide)
  refine ⟨w, ?_, bw⟩
  rw [cosine, if_pos ht.1]
  simp only [bind_eq_ok]
  exact ⟨turns, hturns, q, hq, whole, hwhole, r, hr, part, hpart, x, hx, i0, hi0, f, hf, t0, ht0, t1, ht1, slope, hslope, rise,
    hrise, hw⟩

/-- The sine is the cosine of the complement, or its negation (R66). -/
theorem sine_within {t : F32} (ht : UnitsWithin 14 149 t) : ∃ w, sine t = .ok w ∧ UnitsWithin 3 149 w := by
  rw [sine, if_pos ht.1]
  split
  · obtain ⟨u, hu, bu⟩ := fsub_within halfPi_within ht.neg (by decide) (by decide)
    obtain ⟨w, hw, bw⟩ := cosine_within bu
    exact ⟨fneg w, by rw [hu, ok_bind, hw]; rfl, bw.neg⟩
  · obtain ⟨u, hu, bu⟩ := fsub_within halfPi_within ht (by decide) (by decide)
    obtain ⟨w, hw, bw⟩ := cosine_within bu
    exact ⟨w, by rw [hu, ok_bind, hw], bw⟩

/-- Both parts bounded. -/
def PartsWithin (c n : Nat) (z : Cplx) : Prop := UnitsWithin c n z.re ∧ UnitsWithin c n z.im

theorem PartsWithin.mono {c n d m : Nat} {z : Cplx} (h : PartsWithin c n z) (le : c * 2 ^ n ≤ d * 2 ^ m) : PartsWithin d m z :=
  ⟨h.1.mono le, h.2.mono le⟩

/-- The phases of R79 are below 2π, so their pair answers. -/
theorem phasePair_within {p : Nat} (hp : p < 256) : ∃ z, phasePair p = .ok z ∧ PartsWithin 3 149 z := by
  obtain ⟨k, hk, bk, -⟩ := f32OfInt_within (k := p) (c := 256) (by omega) (by decide)
  obtain ⟨turn, hturn, bturn⟩ := fmul_within twoPi_within.1 bk (by decide) (by decide)
  obtain ⟨φ, hφ, bφ⟩ := fdiv_within (n := 141) bturn f256_le.1 f256_le.2 (by decide) (by decide)
  obtain ⟨c, hc, bc⟩ := cosine_within (bφ.mono (by decide))
  obtain ⟨s, hs, bs⟩ := sine_within (bφ.mono (by decide))
  refine ⟨⟨c, s⟩, ?_, bc, bs⟩
  simp only [phasePair, phaseAngle, hk, hturn, hφ, hc, hs, ok_bind]
  rfl

/-- A checked function that answers on every element answers on the list. -/
theorem mapChecked_answers {α β : Type} {f : α → Except Fault β} {P : β → Prop} {l : List α}
    (h : ∀ a ∈ l, ∃ b, f a = .ok b ∧ P b) : ∃ r, mapChecked f l = .ok r ∧ r.length = l.length ∧ ∀ b ∈ r, P b := by
  induction l with
  | nil => exact ⟨[], rfl, rfl, by simp⟩
  | cons a t ih =>
    obtain ⟨b, hb, pb⟩ := h a List.mem_cons_self
    obtain ⟨r, hr, len, all⟩ := ih fun a ha => h a (List.mem_cons_of_mem _ ha)
    refine ⟨b :: r, ?_, by simp [len], List.forall_mem_cons.2 ⟨pb, all⟩⟩
    simp only [mapChecked, hb, hr, ok_bind]
    rfl

theorem phaseTable_within :
    ∃ table, phaseTable = .ok table ∧ table.length = 256 ∧ ∀ z ∈ table, PartsWithin 3 149 z := by
  obtain ⟨table, ht, len, all⟩ := mapChecked_answers (f := phasePair) (l := List.range 256)
    fun p hp => phasePair_within (List.mem_range.1 hp)
  exact ⟨table, ht, len.trans List.length_range, all⟩

/-! ## The transform -/

/-- The bins of stage `st` (0: before the first): three times the bound of the stage before. -/
def BinWithin (st : Nat) (z : Cplx) : Prop := PartsWithin (3 ^ st) 164 z

theorem BinWithin.succ {st : Nat} {z : Cplx} (h : BinWithin st z) : BinWithin (st + 1) z :=
  h.mono (Nat.mul_le_mul_right _ (Nat.pow_le_pow_right (by decide) (Nat.le_succ st)))

theorem fzero_within (c n : Nat) : UnitsWithin c n fzero :=
  ⟨by decide, (show funits fzero = 0 by decide).trans_le (Nat.zero_le _)⟩

theorem widenComplex_within (v : Sample) : ∃ z, widenComplex v = .ok z ∧ BinWithin 0 z := by
  have range : v.toInt.natAbs ≤ 32768 := by
    have := v.le_toInt; have := v.toInt_lt; simp at *; omega
  obtain ⟨w, hw, bw, -⟩ := f32OfInt_within range (by decide)
  refine ⟨⟨w, fzero⟩, ?_, bw.mono (by decide), fzero_within _ _⟩
  simp only [widenComplex, widenSample, hw, ok_bind]
  rfl

theorem unitsWithin_of_inUnitDisc {z : Cplx} (h : inUnitDisc z = true) : PartsWithin 1 149 z := by
  obtain ⟨⟨fre, ure⟩, fim, uim⟩ := bothAtMost_of_inUnitDisc h
  exact ⟨⟨fre, ure.trans (by decide)⟩, fim, uim.trans (by decide)⟩

/-- A butterfly with a twiddle of modulus at most 1 at most trebles the bound. -/
theorem butterflyPair_within {st : Nat} (h8 : st < 8) {w even odd : Cplx} (hw : inUnitDisc w = true) (he : BinWithin st even)
    (ho : BinWithin st odd) :
    ∃ r, butterflyPair w even odd = .ok r ∧ BinWithin (st + 1) r.1 ∧ BinWithin (st + 1) r.2 := by
  have small : 3 ^ (st + 1) < 2 ^ 24 := (Nat.pow_le_pow_right (by decide) (show st + 1 ≤ 8 by omega)).trans_lt (by decide)
  rw [pow_succ] at small
  obtain ⟨wre, wim⟩ := unitsWithin_of_inUnitDisc hw
  obtain ⟨ere, eim⟩ := he
  obtain ⟨ore, oim⟩ := ho
  obtain ⟨rr, hrr, brr⟩ := fmul_within ore wre (by omega) (by decide)
  obtain ⟨ii, hii, bii⟩ := fmul_within oim wim (by omega) (by decide)
  obtain ⟨ri, hri, bri⟩ := fmul_within ore wim (by omega) (by decide)
  obtain ⟨ir, hir, bir⟩ := fmul_within oim wre (by omega) (by decide)
  obtain ⟨re, hre, bre⟩ := fsub_within brr bii (by omega) (by decide)
  obtain ⟨im, him, bim⟩ := fadd_within bri bir (by omega) (by decide)
  have product : cmul w odd = .ok ⟨re, im⟩ := cmul_swap (cmul_eq_ok.2 ⟨rr, ii, ri, ir, re, im, hrr, hii, hri, hir, hre, him, rfl⟩)
  obtain ⟨are, hare, bare⟩ := fadd_within ere bre (by omega) (by decide)
  obtain ⟨aim, haim, baim⟩ := fadd_within eim bim (by omega) (by decide)
  obtain ⟨sre, hsre, bsre⟩ := fsub_within ere bre (by omega) (by decide)
  obtain ⟨sim, hsim, bsim⟩ := fsub_within eim bim (by omega) (by decide)
  have treble : 3 ^ st + (3 ^ st * 1 + 3 ^ st * 1) = 3 ^ (st + 1) := by rw [pow_succ]; ring
  rw [treble] at bare baim bsre bsim
  refine ⟨(⟨are, aim⟩, ⟨sre, sim⟩), butterflyPair_eq_ok.2 ⟨_, _, _, product, ?_, ?_, rfl⟩, ⟨bare, baim⟩, bsre, bsim⟩
  · simp only [cadd, hare, haim, ok_bind]; rfl
  · simp only [csub, hsre, hsim, ok_bind]; rfl

/-- The spectrum inside a stage: in the block at `k` the first `j` butterflies are done, and so is every block before it. -/
structure InStage (st k j : Nat) (x : List Cplx) : Prop where
  length : x.length = 256
  all : ∀ z ∈ x, BinWithin (st + 1) z
  left : ∀ (i : Nat) (z : Cplx), x[i]? = some z → k + j ≤ i → i < k + 2 ^ st ∨ k + 2 ^ st + j ≤ i → BinWithin st z

/-- One butterfly of a block (R74). -/
theorem butterflyAt_inStage {st k j : Nat} (h8 : st < 8) {w : Cplx} {x : List Cplx} (hw : inUnitDisc w = true)
    (hx : InStage st k j x) (hj : j < 2 ^ st) (hk : k + 2 * 2 ^ st ≤ 256) :
    ∃ x', butterflyAt (2 ^ st) (k + j) w x = .ok x' ∧ InStage st k (j + 1) x' := by
  obtain ⟨len, all, left⟩ := hx
  obtain ⟨even, heven, -⟩ := getElem?_mem_of_lt (l := x) (i := k + j) (by omega)
  obtain ⟨odd, hodd, -⟩ := getElem?_mem_of_lt (l := x) (i := k + j + 2 ^ st) (by omega)
  obtain ⟨r, hr, b1, b2⟩ := butterflyPair_within h8 hw (left _ _ heven (by omega) (by omega))
    (left _ _ hodd (by omega) (by omega))
  refine ⟨(x.set (k + j) r.1).set (k + j + 2 ^ st) r.2, ?_, by simp [len], fun z hz => ?_, fun i z hz low high => ?_⟩
  · rw [butterflyAt, (elemOf_eq_ok _ _ _).2 heven, (elemOf_eq_ok _ _ _).2 hodd]
    simp only [ok_bind, hr]
    rfl
  · obtain hz | rfl := List.mem_or_eq_of_mem_set hz
    · obtain hz | rfl := List.mem_or_eq_of_mem_set hz
      · exact all z hz
      · exact b1
    · exact b2
  · rw [List.getElem?_set_ne (by omega), List.getElem?_set_ne (by omega)] at hz
    exact left i z hz (by omega) (by omega)

/-- The rest of a block from butterfly `j` on. -/
theorem blockLoop_inStage {st k : Nat} (h8 : st < 8) {wm : Cplx} (hwm : stageTwiddle (st + 1) = .ok wm)
    (hk : k + 2 * 2 ^ st ≤ 256) (n j : Nat) {w : Cplx} {x : List Cplx} (hn : j + n = 2 ^ st) (hw : twiddlePower wm j = .ok w)
    (hx : InStage st k j x) : ∃ x', blockLoop wm (2 ^ st) n (k + j) w x = .ok x' ∧ InStage st k (2 ^ st) x' := by
  induction n generalizing j w x with
  | zero => obtain rfl : j = 2 ^ st := by omega
            exact ⟨x, rfl, hx⟩
  | succ n ih =>
    obtain ⟨w', hw', disc⟩ := twiddlePower_inUnitDisc (Nat.le_add_left 1 st) h8 hwm (show j < 2 ^ st by omega)
    obtain rfl : w = w' := Except.ok.inj (hw.symm.trans hw')
    obtain ⟨x', hx', inStage⟩ := butterflyAt_inStage h8 disc hx (by omega) hk
    obtain ⟨w', hw'⟩ := twiddlePower_answers (Nat.le_add_left 1 st) h8 hwm (j + 1)
      (by have := Nat.pow_le_pow_right (n := 2) (by decide) (show st ≤ 7 by omega); omega)
    have next : cmul w wm = .ok w' := by simpa [twiddlePower, hw] using hw'
    simp only [blockLoop, hx', next, ok_bind]
    exact ih (j + 1) (by omega) hw' inStage

/-- A block that is done leads to the next. -/
theorem InStage.nextBlock {st k : Nat} {x : List Cplx} (h : InStage st k (2 ^ st) x) : InStage st (k + 2 * 2 ^ st) 0 x :=
  ⟨h.length, h.all, fun i z hz low _ => h.left i z hz (by omega) (by omega)⟩

theorem stageLoop_inStage {st : Nat} (h8 : st < 8) {wm : Cplx} (hwm : stageTwiddle (st + 1) = .ok wm) (n k : Nat)
    {x : List Cplx} (hn : k + n * (2 * 2 ^ st) = 256) (hx : InStage st k 0 x) :
    ∃ x', stageLoop wm (2 ^ st) n k x = .ok x' ∧ InStage st 256 0 x' := by
  induction n generalizing k x with
  | zero => obtain rfl : k = 256 := by omega
            exact ⟨x, rfl, hx⟩
  | succ n ih =>
    rw [Nat.succ_mul] at hn
    obtain ⟨x', hx', done⟩ := blockLoop_inStage h8 hwm (by omega) (2 ^ st) 0 (Nat.zero_add _) (w := cone) rfl hx
    simp only [stageLoop, show blockLoop wm (2 ^ st) (2 ^ st) k cone x = .ok x' from hx', ok_bind]
    exact ih (k + 2 * 2 ^ st) (by omega) done.nextBlock

/-- One stage trebles the bound of the bins (R75). -/
theorem fftStage_within {st : Nat} (h8 : st < 8) {x : List Cplx} (len : x.length = 256) (hx : ∀ z ∈ x, BinWithin st z) :
    ∃ x', fftStage (st + 1) x = .ok x' ∧ x'.length = 256 ∧ ∀ z ∈ x', BinWithin (st + 1) z := by
  obtain ⟨wm, -, hwm⟩ := stageTwiddle_listed (Nat.le_add_left 1 st) h8
  have start : InStage st 0 0 x :=
    ⟨len, fun z hz => (hx z hz).succ, fun i z hz _ _ => hx z (List.mem_of_getElem? hz)⟩
  have blocks : 0 + 2 ^ (8 - (st + 1)) * (2 * 2 ^ st) = 256 := by
    rw [Nat.zero_add, ← pow_succ', ← pow_add, show 8 - (st + 1) + (st + 1) = 8 by omega]; rfl
  obtain ⟨x', hx', done⟩ := stageLoop_inStage h8 hwm _ 0 blocks start
  exact ⟨x', by rw [fftStage, hwm, ok_bind]; exact hx', done.length, done.all⟩

theorem fftStages_within (n : Nat) {st : Nat} (hn : st + n = 8) {x : List Cplx} (len : x.length = 256)
    (hx : ∀ z ∈ x, BinWithin st z) :
    ∃ x', fftStages n (st + 1) x = .ok x' ∧ x'.length = 256 ∧ ∀ z ∈ x', BinWithin 8 z := by
  induction n generalizing st x with
  | zero => obtain rfl : st = 8 := by omega
            exact ⟨x, rfl, len, hx⟩
  | succ n ih =>
    obtain ⟨y, hy, leny, small⟩ := fftStage_within (by omega) len hx
    obtain ⟨x', hx', rest⟩ := ih (st := st + 1) (by omega) leny small
    exact ⟨x', by rw [fftStages, hy, ok_bind, hx'], rest⟩

theorem mem_of_mem_swapElems {α : Type} {l : List α} {i j : Nat} {a : α} (h : a ∈ swapElems l i j) : a ∈ l := by
  unfold swapElems at h
  split at h
  next b c hb hc =>
    obtain h | rfl := List.mem_or_eq_of_mem_set h
    · obtain h | rfl := List.mem_or_eq_of_mem_set h
      · exact h
      · exact List.mem_of_getElem? hc
    · exact List.mem_of_getElem? hb
  next => exact h

theorem mem_of_mem_goldRader {α : Type} {n i j : Nat} {l : List α} {a : α} (h : a ∈ goldRader n i j l) : a ∈ l := by
  induction n generalizing i j l with
  | zero => exact h
  | succ n ih =>
    have := ih h
    split at this
    · exact mem_of_mem_swapElems this
    · exact this

/-- Every frame has a transform, with parts of at most 3^8 · 2^15 (R76's bound without its care for the modulus). -/
theorem fftFrame_within {v : List Sample} (hv : v.length = 256) :
    ∃ x, fftFrame v = .ok x ∧ x.length = 256 ∧ ∀ z ∈ x, BinWithin 8 z := by
  obtain ⟨x, hx, len, all⟩ := mapChecked_answers (f := widenComplex) (l := v) fun q _ => widenComplex_within q
  obtain ⟨y, hy, rest⟩ := fftStages_within 8 rfl ((bitReverse_length x).trans (len.trans hv))
    fun z hz => all z (mem_of_mem_goldRader hz)
  exact ⟨y, by rw [fftFrame, hx, ok_bind, hy], rest⟩

/-! ## The output sums -/

theorem maskFrom_mem {kMin kMax i : Nat} {x : List Cplx} {z : Cplx} (h : z ∈ maskFrom kMin kMax i x) : z = czero ∨ z ∈ x := by
  induction x generalizing i with
  | nil => cases h
  | cons a t ih =>
    rw [maskFrom] at h
    obtain rfl | h := List.mem_cons.1 h
    · split
      · exact .inl rfl
      · exact .inr List.mem_cons_self
    · exact (ih h).imp_right (List.mem_cons_of_mem a)

theorem maskSpectrum_within {kMin kMax : Nat} {x : List Cplx} (hx : ∀ z ∈ x, BinWithin 8 z) :
    ∀ z ∈ maskSpectrum kMin kMax x, BinWithin 8 z := by
  intro z hz
  obtain rfl | hz := maskFrom_mem hz
  · exact ⟨fzero_within _ _, fzero_within _ _⟩
  · exact hx z hz

/-- The bound of the terms of R80: two products of a bin and an entry of the phase tables. -/
def termBound : Nat := 3 ^ 8 * 3 + 3 ^ 8 * 3

/-- 256 terms stay within 24 bits of their common unit, so their sum is bounded without an allowance for rounding. -/
theorem termBound_sums {k : Nat} (hk : k ≤ 256) : k * termBound < 2 ^ 24 :=
  (Nat.mul_le_mul_right _ hk).trans_lt (by decide)

theorem sumTerm_within {k : Nat} (hk : k < 256) {acc : F32} {z c : Cplx} (ha : UnitsWithin (k * termBound) 164 acc)
    (hz : BinWithin 8 z) (hc : PartsWithin 3 149 c) :
    ∃ w, sumTerm acc z c = .ok w ∧ UnitsWithin ((k + 1) * termBound) 164 w := by
  obtain ⟨zre, zim⟩ := hz
  obtain ⟨cre, cim⟩ := hc
  obtain ⟨a, ha', ba⟩ := fmul_within zre cre (by decide) (by decide)
  obtain ⟨b, hb', bb⟩ := fmul_within zim cim (by decide) (by decide)
  obtain ⟨d, hd, bd⟩ := fsub_within ba bb (by decide) (by decide)
  have total : k * termBound + termBound = (k + 1) * termBound := (Nat.succ_mul ..).symm
  obtain ⟨w, hw, bw⟩ := fadd_within (d := termBound) ha bd (by rw [total]; exact termBound_sums hk) (by decide)
  exact ⟨w, by simp only [sumTerm, ha', hb', hd, ok_bind, hw], by rwa [total] at bw⟩

theorem sumLoop_within {table : List Cplx} (len : table.length = 256) (ht : ∀ z ∈ table, PartsWithin 3 149 z) (n : Nat)
    {k : Nat} {x : List Cplx} (hk : k + x.length = 256) (hx : ∀ z ∈ x, BinWithin 8 z) {acc : F32}
    (ha : UnitsWithin (k * termBound) 164 acc) :
    ∃ w, sumLoop table n k x acc = .ok w ∧ UnitsWithin (256 * termBound) 164 w := by
  induction x generalizing k acc with
  | nil => exact ⟨acc, rfl, hk ▸ ha⟩
  | cons z t ih =>
    rw [List.length_cons] at hk
    obtain ⟨hz, htail⟩ := List.forall_mem_cons.1 hx
    obtain ⟨c, hc, mem⟩ := getElem?_mem_of_lt (l := table) (i := k * n % 256) (len.symm ▸ Nat.mod_lt _ (by decide))
    obtain ⟨acc', hacc, bacc⟩ := sumTerm_within (by omega) ha hz (ht c mem)
    obtain ⟨w, hw, bw⟩ := ih (k := k + 1) (by omega) htail bacc
    exact ⟨w, by simp only [sumLoop, (elemOf_eq_ok _ _ _).2 hc, hacc, ok_bind, hw], bw⟩

/-- An output is below 2^31, as NARROW asks (R93). -/
theorem ifftSum_within {table x : List Cplx} (len : table.length = 256) (ht : ∀ z ∈ table, PartsWithin 3 149 z)
    (lenx : x.length = 256) (hx : ∀ z ∈ x, BinWithin 8 z) (n : Nat) :
    ∃ y, ifftSum table x n = .ok y ∧ finite y = true ∧ funits y < 2 ^ 180 := by
  obtain ⟨acc, hacc, bacc⟩ := sumLoop_within len ht n (k := 0) ((Nat.zero_add _).trans lenx) hx (fzero_within _ _)
  obtain ⟨y, hy, fy, uy⟩ := fdiv_within (n := 156) bacc f256_le.1 f256_le.2 (by decide) (by decide)
  exact ⟨y, by rw [ifftSum, hacc, ok_bind, hy], fy, uy.trans_lt (by decide)⟩

theorem ifftFrame_within {table x : List Cplx} (len : table.length = 256) (ht : ∀ z ∈ table, PartsWithin 3 149 z)
    (lenx : x.length = 256) (hx : ∀ z ∈ x, BinWithin 8 z) :
    ∃ y, ifftFrame table x = .ok y ∧ ∀ w ∈ y, finite w = true ∧ funits w < 2 ^ 180 := by
  obtain ⟨y, hy, -, small⟩ := mapChecked_answers (f := ifftSum table x) (l := List.range 256)
    fun n _ => ifftSum_within len ht lenx hx n
  exact ⟨y, hy, small⟩

/-- The pipeline answers on every frame (R95, R124). -/
theorem filterFrame_answers (kMin kMax : Nat) {v : List Sample} (hv : v.length = 256) :
    ∃ r, filterFrame kMin kMax v = .ok r := by
  obtain ⟨x, hx, lenx, bx⟩ := fftFrame_within hv
  obtain ⟨table, ht, lent, bt⟩ := phaseTable_within
  obtain ⟨y, hy, small⟩ := ifftFrame_within lent bt ((maskSpectrum_length kMin kMax x).trans lenx) (maskSpectrum_within bx)
  obtain ⟨out, ho, -⟩ := mapChecked_answers (f := narrowWord) (P := fun _ => True) (l := y) fun w hw => by
    obtain ⟨fw, uw⟩ := small w hw
    exact ⟨_, narrowWord_in_range fw uw, trivial⟩
  exact ⟨⟨_, table, y, out⟩, (filterFrame_eq_ok _ _ _ _).2 ⟨x, hx, rfl, ht, hy, ho⟩⟩

end Sys2Proof.Machine
end

section
/-! Nothing stops where the stream invariant holds (R123, R124): the sequencer answers at every place of its schedule, so every edge and
every turn does. -/

namespace Sys2Proof.Machine

/-! ## The sequencer -/

theorem finSample_answers {s : State} {v : List Sample} (hv : s.finSamples = .ok v) {i : Nat} (hi : i < 256) :
    ∃ q, s.finSample i = .ok q := by
  simp only [State.finSamples, bind_eq_ok, pure_eq_ok] at hv
  obtain ⟨b, hb, -⟩ := hv
  obtain ⟨len, all⟩ := (readRun_eq_ok _ _ _ _).1 hb
  have byte (j : Nat) (hj : j < 512) : ∃ x, readElem s.cons.fin j = .ok x := by
    obtain ⟨x, hx, -⟩ := getElem?_mem_of_lt (l := b) (len.symm ▸ hj)
    exact ⟨x, readElem_of_readCell (by rw [← hx, ← all j hj, Nat.zero_add])⟩
  obtain ⟨lo, hlo⟩ := byte (2 * i) (by omega)
  obtain ⟨high, hhigh⟩ := byte (2 * i + 1) (by omega)
  exact ⟨sampleOf lo high, by rw [State.finSample, hlo, hhigh]; rfl⟩

theorem Stored.answers {α : Type} {st : Store α} {l : List α} (h : Stored st l) {i : Nat} (hi : i < 256) :
    ∃ a, readElem st i = .ok a ∧ l[i]? = some a := by
  obtain ⟨a, ha, -⟩ := getElem?_mem_of_lt (l := l) (h.1.symm ▸ hi)
  exact ⟨a, readElem_of_readCell ((h.2 i hi).trans ha), ha⟩

/-- A transform that answers has answered its next butterfly. -/
theorem butterflyPair_of_stageRest {st nb blk i : Nat} {wm w even odd : Cplx} {x x' : List Cplx} (hi : i < 2 ^ (st - 1))
    (heven : x[blk + i]? = some even) (hodd : x[blk + i + 2 ^ (st - 1)]? = some odd)
    (h : stageRest st nb blk i wm w x = .ok x') : ∃ r, butterflyPair w even odd = .ok r := by
  rw [stageRest, show 2 ^ (st - 1) - i = 2 ^ (st - 1) - (i + 1) + 1 by omega, blockLoop, butterflyAt,
    (elemOf_eq_ok _ _ _).2 heven, (elemOf_eq_ok _ _ _).2 hodd] at h
  simp only [bind_eq_ok, Except.ok.injEq, exists_eq_left'] at h
  obtain ⟨-, ⟨-, ⟨r, hr, -⟩, -⟩, -⟩ := h
  exact ⟨r, hr⟩

/-- Wherever the sequencer stands in its schedule, its next operation answers (R120, R124). -/
theorem Progress.pipeOp_answers {v : List Sample} {s : State} (hv : s.finSamples = .ok v) (h : Progress v s) :
    ∃ t, Machine.pipeOp s = .ok t := by
  obtain ⟨x₀, hx₀, len₀, bins⟩ := fftFrame_within (finSamples_spec hv).1
  obtain ⟨table₀, ht₀, lent, entries⟩ := phaseTable_within
  have lenm := (maskSpectrum_length s.cfg.kMin s.cfg.kMax x₀).trans len₀
  have masked := maskSpectrum_within (kMin := s.cfg.kMin) (kMax := s.cfg.kMax) bins
  cases h with
  | widen ph hi done =>
    obtain ⟨q, hq⟩ := finSample_answers hv hi
    obtain ⟨z, hz, -⟩ := widenComplex_within q
    exact ⟨_, (Machine.pipeOp_widen s _ ph).2 ⟨q, z, hq, hz, rfl⟩⟩
  | bitrev ph x hx stored => exact ⟨_, (Machine.pipeOp_bitrev s _ ph).2 ⟨x, (spectrum_eq_ok _ _).2 stored, rfl⟩⟩
  | stages ph x wm w nb h1 h8 hi hb hwm hw stored rest =>
    have group : s.pipe.blockCtr + s.pipe.indexCtr + 2 ^ (s.pipe.stageCtr - 1) < 256 := by
      rw [Nat.mul_succ] at hb; omega
    obtain ⟨even, heven, xe⟩ := stored.answers (i := s.pipe.blockCtr + s.pipe.indexCtr) (by omega)
    obtain ⟨odd, hodd, xo⟩ := stored.answers group
    obtain ⟨r, hr⟩ := butterflyPair_of_stageRest hi xe xo (rest.symm.trans hx₀)
    exact ⟨_, (Machine.pipeOp_stages s _ ph).2 ⟨wm, w, even, odd, r, hwm, hw, heven, hodd, hr, rfl⟩⟩
  | mask ph hi x hx len done => exact ⟨_, (Machine.pipeOp_mask s _ ph).2 rfl⟩
  | phases ph hi x hx stored done =>
    obtain ⟨c, hc, -⟩ := phasePair_within hi
    exact ⟨_, (Machine.pipeOp_phases s _ ph).2 ⟨c, hc, rfl⟩⟩
  | sums ph hi x table hx stored ht hc hs done =>
    obtain rfl := Except.ok.inj (hx.symm.trans hx₀)
    obtain rfl := Except.ok.inj (ht.symm.trans ht₀)
    obtain ⟨y, hy, -⟩ := ifftSum_within lent entries lenm masked s.pipe.indexCtr
    exact ⟨_, (Machine.pipeOp_sums s _ ph).2 ⟨_, _, _, y, (readRun_eq_ok_iff_stored _ _).2 hc,
      (readRun_eq_ok_iff_stored _ _).2 hs, (spectrum_eq_ok _ _).2 stored, by rw [zipWith_parts]; exact hy, rfl⟩⟩
  | narrow ph hi x table y hx ht hy stored done =>
    obtain rfl := Except.ok.inj (hx.symm.trans hx₀)
    obtain rfl := Except.ok.inj (ht.symm.trans ht₀)
    obtain ⟨y', hy', small⟩ := ifftFrame_within lent entries lenm masked
    obtain rfl := Except.ok.inj (hy.symm.trans hy')
    obtain ⟨z, hz, mem⟩ := stored.answers hi
    obtain ⟨fz, uz⟩ := small z (List.mem_of_getElem? mem)
    exact ⟨_, (Machine.pipeOp_narrow s _ ph).2 ⟨z, _, hz, narrowWord_in_range fz uz, rfl⟩⟩

theorem Progress.pipeOps_answers {v : List Sample} (n : Nat) {s : State} (hv : s.finSamples = .ok v)
    (hp : s.cons.state = codeProcessing) (h : Progress v s) : ∃ t, Machine.pipeOps n s = .ok t := by
  induction n generalizing s with
  | zero => exact ⟨s, rfl⟩
  | succ n ih =>
    obtain ⟨u, hu⟩ := h.pipeOp_answers hv
    simp only [Machine.pipeOps, if_pos hp, hu, ok_bind]
    obtain ⟨hup, hus⟩ | done := h.pipeOp hv hp hu
    · exact ih ((finSamples_congr (pipeOp_pipelineOnly hu).fin).trans hv) hup hus
    · exact ⟨u, pipeOps_rest n u (by rw [done.state]; decide)⟩

/-! ## The edges of each agent -/

/-- An element of the accepted stream, where it is long enough. -/
theorem written_of_stream {st : Store Byte} {log : List Byte} {a i : Nat} (hi : i < log.length) (h : readCell st a = log[i]?) :
    ∃ b, readCell st a = some b := ⟨log[i], h.trans (List.getElem?_eq_getElem hi)⟩

theorem ProducerHolds.stageCnt_lt {s : State} {H T : Nat} (h : ProducerHolds s H T) (ready : s.inReady = true) :
    s.prod.stageCnt.toNat < 512 := by
  obtain ⟨code, notCommit⟩ := inReady_state s ready
  obtain hs | hs | hs := prodState_cases code
  · rw [h.idleCount hs]; decide
  · exact (h.accumCount hs).2
  · exact absurd hs notCommit

theorem ProducerHolds.prodEdge_answers {s : State} {H T : Nat} (h : ProducerHolds s H T) (v : Bool) (d : Byte) :
    ∃ a, s.prodEdge v d = .ok a := by
  by_cases hs : s.prod.state = codeCommit
  · cases hp : s.prod.cphase with
    | check => exact ⟨_, prodEdge_checks s v d hs hp⟩
    | wait => exact ⟨_, prodEdge_pauses s v d hs hp⟩
    | copy =>
      obtain ⟨len, staged⟩ := h.staged_frame hs
      have idx := s.prod.copyIdx.isLt
      obtain ⟨b, hb⟩ := written_of_stream (by omega) (staged _ idx)
      exact ⟨_, (prodEdge_copies s _ v d hs hp).2 ⟨b, hb, rfl⟩⟩
  · by_cases taken : (v && s.inReady) = true
    · obtain ⟨rfl, ready⟩ := (Bool.and_eq_true_iff).1 taken
      exact ⟨_, prodEdge_accepts s d ready (h.stageCnt_lt ready)⟩
    · exact ⟨s, by rw [State.prodEdge, if_neg h.code, if_neg hs, if_neg taken]⟩

/-- The frame of slot `tf` can be read while one is left (R103, R116). -/
theorem tailFrameBytes_answers {s : State} {H T : Nat} {hs ts : List Nat} (h : ProducerHolds s H T)
    (hr : RingCounts s H T hs ts) (ready : T + 1 ≤ hs.getLastD 0) : s.tailFrameBytes = .ok (frameAt s.inLog T) := by
  obtain ⟨-, -, view, -⟩ := hr.bounds
  have len := h.staged_length_le
  refine (slotReadFrom_eq_ok _ _ _ _ _ _).2 ⟨?_, fun k hk => ?_⟩
  · rw [frameAt, List.length_take, List.length_drop]; omega
  · rw [Nat.zero_add, tailSlot h hr ready hk, frameAt_getElem? _ _ _ hk]

theorem readEdge_answers {s : State} {b : Byte}
    (hb : readCell s.ram (ramAddr s.cfg s.cons.tf s.cons.rdIdx.toNat) = some b) : ∃ u, s.readEdge = .ok u := by
  simp only [State.readEdge, ramRead, readElem_of_readCell hb, ok_bind]
  split
  · exact ⟨_, rfl⟩
  · exact ⟨_, rfl⟩

section

variable {s : State} {H T : Nat} {hs ts : List Nat} {outs : List (List Byte)}

/-- PROCESSING has the Samples of FIN, and what the sequencer has computed from them. -/
theorem ConsumerHolds.progress (h : ConsumerHolds s T outs) (hp : s.cons.state = codeProcessing)
    (hlen : 512 * T ≤ s.inLog.length) : ∃ v, s.finSamples = .ok v ∧ Progress v s := by
  obtain ⟨-, -, -, run⟩ := h.processing hp
  have hv := h.samples hp hlen
  exact ⟨_, hv, run.progress hp hv⟩

theorem ConsumerHolds.nextByte (h : ConsumerHolds s T outs) (he : s.cons.state = codeEmitting)
    (more : s.cons.emitIdx ≠ 513#10) : ∃ x, s.outByte (s.cons.emitIdx.toNat + 1) = .ok x := by
  obtain ⟨-, last, -, -, len, -, bytes⟩ := h.emittingFrame he
  have range := h.emitRange
  have index : s.cons.emitIdx.toNat + 1 < 514 := by bv_omega
  obtain ⟨x, hx, -⟩ := getElem?_mem_of_lt (l := last) (len.symm ▸ index)
  exact ⟨x, (bytes _ (by omega)).trans ((elemOf_eq_ok _ _ _).2 hx)⟩

theorem ConsumerHolds.consEdge_answers (h : ConsumerHolds s T outs) (hp : ProducerHolds s H T) (hr : RingCounts s H T hs ts)
    (r : Bool) : ∃ b, s.consEdge r = .ok b := by
  obtain ⟨-, known, view, -⟩ := hr.bounds
  have len := hp.staged_length_le
  obtain hw | hw | hw := consState_cases h.code
  · cases hq : s.cons.dqActive with
    | false =>
      by_cases ready : 1 ≤ s.framesReady
      · exact ⟨_, by rw [State.consEdge, if_neg h.code, if_pos hw, if_pos (by simp [hq]), if_pos ready]⟩
      · exact ⟨s, consEdge_waits s r hw hq (by omega)⟩
    | true =>
      by_cases stall : 0 < s.pipe.stall
      · exact ⟨_, consEdge_stalls s r (.inl ⟨hw, hq⟩) stall⟩
      · have idx := s.cons.rdIdx.isLt
        have ready := hr.reading hq
        obtain ⟨b, hb⟩ := written_of_stream (by omega) (tailSlot hp hr ready idx)
        obtain ⟨u, hu⟩ := readEdge_answers hb
        exact ⟨u.stalled, by simp [State.consEdge, hw, hq, stall, hu, codeWaiting, codeUnused]⟩
  · by_cases stall : 0 < s.pipe.stall
    · exact ⟨_, consEdge_stalls s r (.inr hw) stall⟩
    · obtain ⟨v, hv, run⟩ := h.progress hw (by omega)
      have same : SameRun s.drawn s := ⟨rfl, rfl, rfl, rfl, rfl⟩
      obtain ⟨u, hu⟩ := (run.congr same).pipeOps_answers (s := s.drawn) (Config.pipeRate s.freeIdx + 1) hv hw
      exact ⟨u.stalled, by simp [State.consEdge, hw, stall, hu, codeProcessing, codeWaiting, codeUnused]⟩
  · rw [consEdge_emitting r hw]
    cases r with
    | false => exact ⟨s, by simp [State.emitEdge]⟩
    | true => exact ⟨_, emitEdge_eq_emitting (h.offered.2 hw) (h.nextByte hw)⟩

end

/-! ## Every event -/

theorem clkInEdge_completes {s : State} (inv : StreamInv s) (v : Bool) (d : Byte) : completes (clkInEdge v d s) := by
  obtain ⟨H, T, hs, ts, outs, counts⟩ := inv
  obtain ⟨hp, -, -⟩ := (streamCounts_iff ..).1 counts
  cases line : s.rst.rstN with
  | false => exact ⟨_, (clkInEdge_eq_next v d s _).2 (.inl ⟨line, rfl⟩)⟩
  | true =>
    cases out : s.prodOutOfReset with
    | false => exact ⟨_, (clkInEdge_eq_next v d s _).2 (.inr (.inl ⟨line, out, rfl⟩))⟩
    | true =>
      obtain ⟨a, ha⟩ := hp.prodEdge_answers v d
      exact ⟨_, (clkInEdge_eq_next v d s _).2 (.inr (.inr ⟨out, a, ha, rfl⟩))⟩

theorem clkProcEdge_completes {s : State} (inv : StreamInv s) (r : Bool) : completes (clkProcEdge r s) := by
  obtain ⟨H, T, hs, ts, outs, counts⟩ := inv
  obtain ⟨hp, hc, hr⟩ := (streamCounts_iff ..).1 counts
  cases line : s.rst.rstN with
  | false => exact ⟨_, (clkProcEdge_eq_next r s _).2 (.inl ⟨line, rfl⟩)⟩
  | true =>
    cases out : s.consOutOfReset with
    | false => exact ⟨_, (clkProcEdge_eq_next r s _).2 (.inr (.inl ⟨line, out, rfl⟩))⟩
    | true =>
      obtain ⟨b, hb⟩ := hc.consEdge_answers hp hr r
      exact ⟨_, (clkProcEdge_eq_next r s _).2 (.inr (.inr ⟨out, b, hb, rfl⟩))⟩

theorem Event.isCycle_of_isEdge {ev : Event} (h : ev.isEdge = true) : ev.isCycle = true := by
  cases ev with
  | clkIn | clkProc | clkBoth | rstN => rfl
  | _ => cases h

/-- No edge of a clock stops, nor does `rst_n` falling. -/
theorem cycleStep_completes {s : State} (inv : StreamInv s) {ev : Event} (edge : ev.isEdge = true) :
    completes (cycleStep ev s) := by
  cases ev with
  | clkIn v d => exact clkInEdge_completes inv v d
  | clkProc r => exact clkProcEdge_completes inv r
  | clkBoth v d r newHead newTail =>
    obtain ⟨a, ha⟩ := clkInEdge_completes inv v d
    obtain ⟨b, hb⟩ := clkProcEdge_completes inv r
    exact ⟨_, (clkBothEdge_eq_next v d r newHead newTail s _).2 ⟨a, b, ha, hb, rfl⟩⟩
  | rstN level =>
    obtain rfl : level = false := by simpa [Event.isEdge] using edge
    simp only [cycleStep, resetLine]
    split
    · exact ⟨_, rfl⟩
    · exact ⟨_, rfl⟩
  | prod | cons | syncH | syncT | reset | call => cases edge

section

variable {s : State} {rest : List Event} {H T : Nat} {hs ts : List Nat} {outs : List (List Byte)}

/-- PROD's turn: it is in reset, it takes the row of its state (O4), or none. -/
theorem prodTurn_completes {v : Bool} {d : Byte} (hl : s.cfg.legal = true) (hi : s.inbox = .prod v d :: rest)
    (hp : ProducerHolds s H T) : completes (step s) := by
  obtain ⟨held, runs⟩ := prodTurnTakesItsRow s v d rest hl hi
  cases out : s.prodOutOfReset with
  | false => exact ⟨_, held hp.code out⟩
  | true =>
    obtain ⟨-, -, waits, commits, fails⟩ := runs out
    have early (before : s.prod.state = codeIdle ∨ s.prod.state = codeAccum) : completes (step s) := by
      cases v with
      | false => exact ⟨_, waits before rfl⟩
      | true =>
        have ready : s.inReady = true := by simpa [State.inReady, out] using before
        exact ⟨_, step_accepts hl hi ready (hp.stageCnt_lt ready)⟩
    obtain state | state | state := prodState_cases hp.code
    · exact early (.inl state)
    · exact early (.inr state)
    · cases room : s.canCommit with
      | true =>
        obtain ⟨b, row⟩ := commits state room
        obtain ⟨len, staged⟩ := hp.staged_frame state
        have frame := readRun_frame len.ge staged
        exact ⟨_, row.trans ((execCommitOk_eq_next b d _ _).2 ⟨out, state, room, _, frame, rfl⟩)⟩
      | false =>
        obtain ⟨b, row⟩ := fails state room
        exact ⟨_, row.trans ((execCommitBp_eq_next b d _ _).2 ⟨out, state, room, rfl⟩)⟩

/-- CONS's turn: it is in reset, it takes the row of its state (O5), or none. -/
theorem consTurn_completes {r : Bool} (hl : s.cfg.legal = true) (hi : s.inbox = .cons r :: rest) (hp : ProducerHolds s H T)
    (hr : RingCounts s H T hs ts) (hc : ConsumerHolds s T outs) : completes (step s) := by
  obtain ⟨held, runs⟩ := consTurnTakesItsRow s r rest hl hi
  obtain ⟨-, known, view, -⟩ := hr.bounds
  have len := hp.staged_length_le
  cases out : s.consOutOfReset with
  | false => exact ⟨_, held hc.code out⟩
  | true =>
    obtain ⟨waits, dequeues, processes, holds, -⟩ := runs out
    obtain state | state | state := consState_cases hc.code
    · by_cases empty : s.framesReady = 0
      · exact ⟨_, waits state empty⟩
      · have frame := tailFrameBytes_answers hp hr ((hr.framesReady_iff hl).1 empty)
        exact ⟨_, (dequeues state (Nat.pos_of_ne_zero empty)).trans
          ((execDequeue_eq_next _ _).2 ⟨out, state, empty, _, frame, rfl⟩)⟩
    · obtain ⟨f, row⟩ := processes state
      obtain ⟨v, hv, -⟩ := hc.progress state (by omega)
      obtain ⟨result, hresult⟩ := filterFrame_answers s.cfg.kMin s.cfg.kMax (finSamples_spec hv).1
      exact ⟨_, row.trans ((execProcess_eq_next f _ _).2 ⟨out, state, v, result, hv, hresult, rfl⟩)⟩
    · cases r with
      | false => exact ⟨_, holds state rfl⟩
      | true => exact ⟨_, step_sends hl hi out state (hc.offeredByte state)⟩

theorem syncH_completes (hl : s.cfg.legal = true) (hi : s.inbox = .syncH :: rest) (hr : RingCounts s H T hs ts) :
    completes (step s) := by
  cases out : s.consOutOfReset with
  | false => exact ⟨_, step_idles hl hi rfl (if_neg (by simp [out]))⟩
  | true =>
    have slots := (legal_slots hl).1
    have range : s.prod.hf < s.slots := by rw [hr.head]; exact Nat.mod_lt _ (by rw [State.slots]; omega)
    obtain ⟨head, -, -⟩ := syncAndResetTurnsTakeTheirRows s rest hl
    exact ⟨_, (head hi out range).trans ((execSyncH_eq_next (grayOf s.prod.hf) _ _).2 ⟨out, rfl⟩)⟩

theorem syncT_completes (hl : s.cfg.legal = true) (hi : s.inbox = .syncT :: rest) (hr : RingCounts s H T hs ts) :
    completes (step s) := by
  cases out : s.prodOutOfReset with
  | false => exact ⟨_, step_idles hl hi rfl (if_neg (by simp [out]))⟩
  | true =>
    have slots := (legal_slots hl).1
    have range : s.cons.tf < s.slots := by rw [hr.tail]; exact Nat.mod_lt _ (by rw [State.slots]; omega)
    obtain ⟨-, tail, -⟩ := syncAndResetTurnsTakeTheirRows s rest hl
    exact ⟨_, (tail hi out range).trans ((execSyncT_eq_next (grayOf s.cons.tf) _ _).2 ⟨out, rfl⟩)⟩

end

/-- Settles O53: each turn takes a row that answers, or none, and each edge answers. -/
theorem noTurnStops : Obligations.NoTurnStops := by
  rintro s ev rest hl hi (turn | edge) inv
  · obtain ⟨H, T, hs, ts, outs, counts⟩ := inv
    obtain ⟨hp, hc, hr⟩ := (streamCounts_iff ..).1 counts
    cases ev with
    | prod v d => exact prodTurn_completes hl hi hp
    | cons r => exact consTurn_completes hl hi hp hr hc
    | syncH => exact syncH_completes hl hi hr
    | syncT => exact syncT_completes hl hi hr
    | reset =>
      obtain ⟨-, -, reset⟩ := syncAndResetTurnsTakeTheirRows s rest hl
      exact ⟨_, reset hi⟩
    | call | clkIn | clkProc | clkBoth | rstN => cases turn
  · rw [step_event s ev rest hl hi, runEvent, if_pos (Event.isCycle_of_isEdge edge)]
    exact cycleStep_completes (inv.inbox hl rest) edge

end Sys2Proof.Machine
end

section
/-! Significands of 24 bits are words: so the floor of a word is one, and no value of the finite range is far from a word. -/

namespace Sys2Proof.Machine

theorem funits_le {a : F32} (h : finite a = true) : funits a ≤ (2 ^ 24 - 1) * 2 ^ 253 := by
  have hf := ffrac_lt a
  have he := fexp_lt a
  have h255 : fexp a ≠ 255 := by simpa [finite] using h
  have hpow : 2 ^ (fexp a - 1) ≤ 2 ^ 253 := Nat.pow_le_pow_right (by decide) (by omega)
  unfold funits
  split
  · omega
  · rw [Nat.shiftLeft_eq]
    exact Nat.mul_le_mul (by omega) hpow

/-- A significand of 24 bits in some position is not rounded. -/
theorem roundUnits_exact (neg : Bool) {c n : Nat} (hc : c < 2 ^ 24) (range : c * 2 ^ n < 2 ^ 277 - 2 ^ 252) :
    ∃ w, roundUnits neg (c * 2 ^ n) 0 = .ok w ∧ finite w = true ∧ fvalue w = signed neg (c * 2 ^ n) := by
  obtain ⟨w, hw⟩ := (roundUnits_answers_iff neg (stands_integer (c * 2 ^ n))).2 (by rwa [mul_one])
  obtain ⟨fw, sign, value⟩ := roundUnits_ok _ _ _ _ hw
  have small : c * 2 ^ n < 2 ^ (24 + n) := by
    rw [pow_add]; exact Nat.mul_lt_mul_of_pos_right hc (Nat.two_pow_pos n)
  rw [Nat.sub_zero, roundShift_of_dvd ((pow_dvd_pow 2 (roundPos_le_of_lt small)).trans (Nat.dvd_mul_left _ _))] at value
  exact ⟨w, hw, fw, by rw [fvalue, sign, value, signed]⟩

/-- The words are no coarser than 2^253 units, the last place of the greatest ones. -/
theorem exists_word_below {x : Int} (h0 : 0 ≤ x) (h : x < 2 ^ 24 * 2 ^ 253) :
    ∃ u, finite u = true ∧ fvalue u ≤ x ∧ x < fvalue u + 2 ^ 253 := by
  have hc : (x / 2 ^ 253).toNat < 2 ^ 24 := by omega
  obtain ⟨u, -, fu, vu⟩ := roundUnits_exact false (n := 253) hc
    ((Nat.mul_le_mul_right _ (Nat.le_sub_one_of_lt hc)).trans_lt (by omega))
  refine ⟨u, fu, ?_⟩
  simp only [signed, Bool.false_eq_true, if_false] at vu
  omega

/-- What is nearest to `N / D` in the finite range is less than 2^253 units from it. -/
theorem natAbs_lt_of_nearest {w D N : Int} (hD : 0 < D) (h0 : 0 ≤ N) (range : N < 2 ^ 24 * 2 ^ 253 * D)
    (near : ∀ u, finite u = true → (w * D - N).natAbs ≤ (fvalue u * D - N).natAbs) :
    ((w * D - N).natAbs : Int) < 2 ^ 253 * D := by
  obtain ⟨u, fu, below, above⟩ :=
    exists_word_below (Int.ediv_nonneg h0 hD.le) (Int.ediv_lt_of_lt_mul hD range)
  have low : fvalue u * D ≤ N := (Int.mul_le_mul_of_nonneg_right below hD.le).trans (Int.ediv_mul_le N hD.ne')
  have high : N < (fvalue u + 2 ^ 253) * D :=
    (Int.lt_ediv_add_one_mul_self N hD).trans_le (Int.mul_le_mul_of_nonneg_right above hD.le)
  have := near u fu
  rw [add_mul] at high
  omega

/-- The floor of a word is a word (R10). -/
theorem f32OfInt_floorInt {a : F32} (h : finite a = true) :
    ∃ w, f32OfInt (floorInt a) = .ok w ∧ finite w = true ∧ fvalue w = floorInt a * 2 ^ 149 := by
  have abs := fvalue_natAbs a
  rcases Nat.lt_or_ge (2 ^ 23 * 2 ^ 149) (funits a) with large | small
  · obtain ⟨c, n, hc, form⟩ := funits_form a
    have hn : 149 ≤ n := by
      by_contra hlt
      have : c * 2 ^ n ≤ 2 ^ 24 * 2 ^ 148 := Nat.mul_le_mul hc.le (Nat.pow_le_pow_right (by decide) (by omega))
      omega
    have whole : floorInt a * 2 ^ 149 = fvalue a :=
      Int.ediv_mul_cancel (Int.natAbs_dvd_natAbs.1 (by
        rw [abs, form]
        exact (pow_dvd_pow 2 hn).trans (Nat.dvd_mul_left _ _)))
    have units : (floorInt a).natAbs <<< 149 = c * 2 ^ n := by
      rw [Nat.shiftLeft_eq, ← form, ← abs, ← whole, Int.natAbs_mul]; rfl
    obtain ⟨w, hw, fw, vw⟩ := roundUnits_exact (decide (floorInt a < 0)) hc
      (form ▸ (funits_le h).trans_lt (by omega))
    refine ⟨w, by rw [f32OfInt, units, hw], fw, ?_⟩
    have sign : floorInt a < 0 ↔ fvalue a < 0 := by omega
    rw [vw, ← form, ← abs, whole, decide_eq_decide.2 sign, signed_natAbs]
  · obtain ⟨w, hw, within, vw⟩ := f32OfInt_within (floorInt_natAbs_le ⟨h, small⟩) (by decide)
    exact ⟨w, hw, within.1, vw⟩

end Sys2Proof.Machine
end

section
/-! `twiddle_rom` (R64 to R66): COS and SIN answer for every finite angle. The subtraction of line 3 cancels all but a few units in
the last place of the angle, so the index of line 4 stays in range; and the greatest quotient by TWO_PI rounds down, so the product
of line 3 does not overflow. -/

namespace Sys2Proof.Machine

/-! ## The reduction of the angle -/

theorem fvalue_twoPi : fvalue twoPi = 13176795 * 2 ^ 128 := by decide

theorem fvalue_fabs (a : F32) : fvalue (fabs a) = funits a := by simp [fvalue]

/-- The greatest finite word divided by TWO_PI. -/
def maxTurns : F32 := 0x7E22F982#32

theorem fvalue_maxTurns : fvalue maxTurns = 0xA2F982 * 2 ^ 251 := by decide

/-- No quotient by TWO_PI is above `maxTurns`: the exact one lies below the midpoint to the next word. -/
theorem fvalue_le_maxTurns {d : F32} {n : Int} (hn : n ≤ (2 ^ 24 - 1) * 2 ^ 253)
    (near : ∀ u, finite u = true →
      (fvalue d * fvalue twoPi - n * 2 ^ 149).natAbs ≤ (fvalue u * fvalue twoPi - n * 2 ^ 149).natAbs) :
    fvalue d ≤ fvalue maxTurns := by
  have pos : roundPos (0xA2F982 * 2 ^ 251) 0 = 251 := by decide
  have gap := fvalue_outside d (0xA2F982 * 2 ^ 251) 0
  have closer := near maxTurns (by decide)
  rw [pos, Nat.shiftRight_eq_div_pow, Nat.mul_div_cancel _ (Nat.two_pow_pos _)] at gap
  rw [fvalue_maxTurns, fvalue_twoPi] at closer
  rw [fvalue_maxTurns]
  omega

/-- Line 2 before its floor: how near the quotient is, and the end of its range. -/
theorem fdiv_twoPi_answers {t : F32} (ht : finite t = true) :
    ∃ d, fdiv (fabs t) twoPi = .ok d ∧ finite d = true ∧ 0 ≤ fvalue d ∧ fvalue d ≤ fvalue maxTurns ∧
      ((fvalue d * fvalue twoPi - funits t * 2 ^ 149).natAbs : Int) < 2 ^ 253 * fvalue twoPi := by
  have bound := funits_le ht
  obtain ⟨-, quotient⟩ := divisionIsCorrectlyRounded
  obtain ⟨answers, rounded⟩ := quotient (fabs t) twoPi (by simpa using ht) (by decide) (by decide)
  obtain ⟨d, hd⟩ := answers.2 (by rw [fvalue_fabs, fvalue_twoPi]; omega)
  obtain ⟨fd, sign, near, -⟩ := rounded d hd
  rw [fvalue_fabs] at near
  refine ⟨d, hd, fd, ?_, fvalue_le_maxTurns (by omega) near, ?_⟩
  · have : fsign d = false := by rw [sign, fsign_fabs]; decide
    simp [fvalue, this]
  · exact natAbs_lt_of_nearest (by decide) (by omega) (by rw [fvalue_twoPi]; omega) near

/-- The multiple of TWO_PI that line 3 takes away. -/
theorem fmul_twoPi_answers {q : F32} (hq : finite q = true) (h0 : 0 ≤ fvalue q) (max : fvalue q ≤ fvalue maxTurns) :
    ∃ m, fmul q twoPi = .ok m ∧ finite m = true ∧
      ((fvalue m * 2 ^ 149 - fvalue q * fvalue twoPi).natAbs : Int) < 2 ^ 253 * 2 ^ 149 := by
  rw [fvalue_maxTurns] at max
  obtain ⟨-, product⟩ := multiplicationIsCorrectlyRounded
  obtain ⟨answers, rounded⟩ := product q twoPi hq (by decide)
  obtain ⟨m, hm⟩ := answers.2 (by rw [fvalue_twoPi]; omega)
  obtain ⟨fm, -, near, -⟩ := rounded m hm
  exact ⟨m, hm, fm, natAbs_lt_of_nearest (by decide) (by rw [fvalue_twoPi]; omega) (by rw [fvalue_twoPi]; omega) near⟩

/-- Lines 1 to 4 of R65: the index into the table. -/
def tableIndex (t : F32) : Except Fault F32 := do
  let q ← f32OfInt (floorInt (← fdiv (fabs t) twoPi))
  let r ← fsub (fabs t) (← fmul q twoPi)
  fmul (← fdiv r twoPi) f360

theorem tableIndex_eq_ok {t x : F32} : tableIndex t = .ok x ↔ ∃ d q m r e,
    fdiv (fabs t) twoPi = .ok d ∧ f32OfInt (floorInt d) = .ok q ∧ fmul q twoPi = .ok m ∧ fsub (fabs t) m = .ok r ∧
    fdiv r twoPi = .ok e ∧ fmul e f360 = .ok x := by
  simp only [tableIndex, bind_eq_ok]
  constructor
  · rintro ⟨d, hd, q, hq, m, hm, r, hr, e, he, hx⟩
    exact ⟨d, q, m, r, e, hd, hq, hm, hr, he, hx⟩
  · rintro ⟨d, q, m, r, e, hd, hq, hm, hr, he, hx⟩
    exact ⟨d, hd, q, hq, m, hm, r, hr, e, he, hx⟩

/-- What line 3 leaves is the error of the quotient and what its floor drops, both times TWO_PI, and the error of the product: at most
nine units in the last place of the greatest words, so lines 3 and 4 stay in range. -/
theorem tableIndex_answers {t : F32} (ht : finite t = true) : ∃ x, tableIndex t = .ok x ∧ finite x = true := by
  obtain ⟨twoPi_le, le_twoPi⟩ := twoPi_within
  obtain ⟨d, hd, fd, d_nonneg, d_le, d_near⟩ := fdiv_twoPi_answers ht
  obtain ⟨q, hq, fq, vq⟩ := f32OfInt_floorInt fd
  have floor : fvalue q ≤ fvalue d ∧ fvalue d < fvalue q + 2 ^ 149 ∧ 0 ≤ fvalue q := by
    rw [vq, floorInt]; omega
  obtain ⟨q_le, lt_q, q_nonneg⟩ := floor
  obtain ⟨m, hm, fm, m_near⟩ := fmul_twoPi_answers fq q_nonneg (q_le.trans d_le)
  have cancels : (fvalue (fabs t) + fvalue (fneg m)).natAbs ≤ 18 * 2 ^ 252 := by
    rw [fvalue_twoPi] at d_near m_near
    rw [fvalue_fabs, fvalue_fneg]
    omega
  obtain ⟨r, hr, br⟩ := fadd_of_natAbs_le (a := fabs t) (b := fneg m) (by simpa using ht) (by simpa using fm) cancels
    (by decide) (by decide)
  obtain ⟨e, he, be⟩ := fdiv_within (n := 250) br twoPi_le.1 le_twoPi (by decide) (by decide)
  obtain ⟨x, hx, bx⟩ := fmul_within be f360_within (by decide) (by decide)
  exact ⟨x, tableIndex_eq_ok.2 ⟨d, q, m, r, e, hd, hq, hm, hr, he, hx⟩, bx.1⟩

/-! ## The interpolation -/

/-- Lines 5 to 9 of R65. -/
def interpolated (x : F32) : Except Fault F32 := do
  let f ← fsub x (← f32OfInt (floorInt x))
  let i := (floorInt x % 360).toNat
  let t0 ← romWord i
  let t1 ← romWord ((i + 1) % 360)
  fadd t0 (← fmul f (← fsub t1 t0))

theorem romWord_eq_ok {i : Nat} {v : F32} : romWord i = .ok v ↔ romImage[i]? = some v := by
  unfold romWord; cases romImage[i]? <;> simp

/-- The second index of line 7, in integers. -/
theorem nextIndex_eq (n : Int) : ((n % 360).toNat + 1) % 360 = ((n + 1) % 360).toNat := by omega

theorem interpolated_eq_ok {x v : F32} : interpolated x = .ok v ↔ ∃ k f t0 t1 df g,
    f32OfInt (floorInt x) = .ok k ∧ fsub x k = .ok f ∧
    romImage[(floorInt x % 360).toNat]? = some t0 ∧ romImage[((floorInt x + 1) % 360).toNat]? = some t1 ∧
    fsub t1 t0 = .ok df ∧ fmul f df = .ok g ∧ fadd t0 g = .ok v := by
  simp only [interpolated, nextIndex_eq, bind_eq_ok, romWord_eq_ok]
  constructor
  · rintro ⟨k, hk, f, hf, t0, ht0, t1, ht1, df, hdf, g, hg, hv⟩
    exact ⟨k, f, t0, t1, df, g, hk, hf, ht0, ht1, hdf, hg, hv⟩
  · rintro ⟨k, f, t0, t1, df, g, hk, hf, ht0, ht1, hdf, hg, hv⟩
    exact ⟨k, hk, f, hf, t0, ht0, t1, ht1, df, hdf, g, hg, hv⟩

theorem interpolated_answers {x : F32} (hx : finite x = true) : ∃ v, interpolated x = .ok v := by
  obtain ⟨k, hk, fk, vk⟩ := f32OfInt_floorInt hx
  obtain ⟨f, hf, bf⟩ := fadd_of_natAbs_le (b := fneg k) hx (by simpa using fk)
    (by rw [fvalue_fneg, vk]; exact sub_floorInt x) (by decide) (by decide)
  obtain ⟨t0, ht0, bt0⟩ := romWord_within (i := (floorInt x % 360).toNat) (by omega)
  obtain ⟨t1, ht1, bt1⟩ := romWord_within (i := ((floorInt x + 1) % 360).toNat) (by omega)
  obtain ⟨df, hdf, bdf⟩ := fsub_within bt1 bt0 (by decide) (by decide)
  obtain ⟨g, hg, bg⟩ := fmul_within bf (bdf.mono (d := 2) (by decide)) (by decide) (by decide)
  obtain ⟨v, hv, -⟩ := fadd_within bt0 bg (by decide) (by decide)
  exact ⟨v, interpolated_eq_ok.2 ⟨k, f, t0, t1, df, g, hk, hf, romWord_eq_ok.1 ht0, romWord_eq_ok.1 ht1, hdf, hg, hv⟩⟩

/-! ## Cosine and sine -/

theorem cosine_finite {t : F32} (ht : finite t = true) : cosine t = tableIndex t >>= interpolated := by
  simp only [cosine, if_pos ht, tableIndex, bind_assoc]
  rfl

theorem cosine_nonfinite {t : F32} (ht : finite t = false) : cosine t = .error .trigNonFinite := by simp [cosine, ht]

theorem cosine_answers {t : F32} (ht : finite t = true) : ∃ v, cosine t = .ok v := by
  obtain ⟨x, hx, fx⟩ := tableIndex_answers ht
  obtain ⟨v, hv⟩ := interpolated_answers fx
  exact ⟨v, by rw [cosine_finite ht, hx, ok_bind, hv]⟩

/-- Line 1 takes the sign away. -/
theorem cosine_fneg (t : F32) : cosine (fneg t) = cosine t := by
  have abs : fabs (fneg t) = fabs t := by
    refine BitVec.eq_of_getLsbD_eq fun i hi => ?_
    rw [getLsbD_fabs _ i hi, getLsbD_fabs _ i hi, getLsbD_fneg _ i hi]
    by_cases h31 : i = 31 <;> simp [h31]
  simp [cosine, abs]

/-- The complement of R66 stays in the finite range. -/
theorem fsub_halfPi_answers {t : F32} (ht : finite t = true) :
    ∃ a v, fsub halfPi t = .ok a ∧ cosine a = .ok v := by
  have bound := funits_le ht
  have abs := fvalue_natAbs t
  have half := halfPi_within.natAbs
  obtain ⟨a, ha⟩ := (fadd_answers_iff (a := halfPi) (b := fneg t) (by decide) (by simpa using ht)).2
    (by rw [fvalue_fneg]; omega)
  obtain ⟨-, -, fa, -⟩ := fadd_ok _ _ _ ha
  obtain ⟨v, hv⟩ := cosine_answers fa
  exact ⟨a, v, ha, hv⟩

theorem sine_of_nonneg {t : F32} (ht : finite t = true) (h : 0 ≤ fvalue t) : sine t = fsub halfPi t >>= cosine := by
  rw [sine, if_pos ht, if_neg (not_lt.2 h)]

theorem sine_of_neg {t : F32} (ht : finite t = true) (h : fvalue t < 0) :
    sine t = (fsub halfPi (fneg t) >>= cosine).map fneg := by
  rw [sine, if_pos ht, if_pos h]
  cases fsub halfPi (fneg t) with
  | error e => rfl
  | ok a => rw [ok_bind, ok_bind]; cases cosine a <;> rfl

theorem sine_nonfinite {t : F32} (ht : finite t = false) : sine t = .error .trigNonFinite := by simp [sine, ht]

/-- The sine of a positive angle flips its sign with the angle. -/
theorem sine_fneg_of_pos {t : F32} (h : 0 < fvalue t) : sine (fneg t) = (sine t).map fneg := by
  cases ht : finite t with
  | false => rw [sine_nonfinite ht, sine_nonfinite (by simpa using ht)]; rfl
  | true =>
    rw [sine_of_nonneg ht h.le, sine_of_neg (by simpa using ht) (by rw [fvalue_fneg]; omega), fneg_fneg]

/-- Settles O11: the cosine answers on every finite angle, and the sine is a cosine of one. -/
theorem trigIsTotalOnFiniteAngles : Obligations.TrigIsTotalOnFiniteAngles := by
  refine fun t ht => ⟨cosine_answers ht, ?_⟩
  rcases lt_or_ge (fvalue t) 0 with neg | nonneg
  · obtain ⟨a, v, ha, hv⟩ := fsub_halfPi_answers (t := fneg t) (by simpa using ht)
    exact ⟨fneg v, by rw [sine_of_neg ht neg, ha, ok_bind, hv]; rfl⟩
  · obtain ⟨a, v, ha, hv⟩ := fsub_halfPi_answers ht
    exact ⟨v, by rw [sine_of_nonneg ht nonneg, ha, ok_bind, hv]⟩

/-! ## The rows -/

theorem exec_cos (t : F32) (s : State) : exec (.cos t) s = finish ((cosine t).map fun v => s.returning (.word v)) := by
  rw [exec, execCos]; cases cosine t <;> rfl

theorem exec_sin (t : F32) (s : State) : exec (.sin t) s = finish ((sine t).map fun v => s.returning (.word v)) := by
  rw [exec, execSin]; cases sine t <;> rfl

theorem exec_romRead (a : BitVec 9) (s : State) :
    exec (.romRead a) s = finish ((romWord a.toNat).map fun v => s.returning (.word v)) := by
  rw [exec, execRomRead]; cases romWord a.toNat <;> rfl

/-- Settles O9: the nine lines are those of `tableIndex` and `interpolated`. -/
theorem cosineFollowsItsNineLines : Obligations.CosineFollowsItsNineLines := by
  refine fun t s => ⟨fun ⟨ht, _⟩ => ?_, fun ht => by rw [exec_cos, cosine_nonfinite ht]; rfl⟩
  obtain ⟨x, hx, fx⟩ := tableIndex_answers ht
  obtain ⟨v, hv⟩ := interpolated_answers fx
  have row : exec (.cos t) s = .next (s.returning (.word v)) := by
    rw [exec_cos, cosine_finite ht, hx, ok_bind, hv]; rfl
  obtain ⟨d, q, m, r, e, hd, hq, hm, hr, he, hx⟩ := tableIndex_eq_ok.1 hx
  obtain ⟨k, f, t0, t1, df, g, hk, hf, ht0, ht1, hdf, hg, hv⟩ := interpolated_eq_ok.1 hv
  exact ⟨d, q, m, r, e, x, k, f, t0, t1, df, g, v, hd, hq, hm, hr, he, hx, hk, hf, ht0, ht1, hdf, hg, hv, row⟩

/-- Settles O10: the two branches of R66, and what the sign of the angle changes. -/
theorem sineReflectsTheCosine : Obligations.SineReflectsTheCosine := by
  refine ⟨fun t => ⟨cosine_fneg t, sine_fneg_of_pos⟩, fun t s => ⟨?_, ?_, fun ht => ?_⟩⟩
  · rintro ⟨ht, -⟩ nonneg
    obtain ⟨a, v, ha, hv⟩ := fsub_halfPi_answers ht
    exact ⟨a, v, ha, hv, by rw [exec_sin, sine_of_nonneg ht nonneg, ha, ok_bind, hv]; rfl⟩
  · rintro ⟨ht, -⟩ neg
    obtain ⟨a, v, ha, hv⟩ := fsub_halfPi_answers (t := fneg t) (by simpa using ht)
    exact ⟨a, v, ha, hv, by rw [exec_sin, sine_of_neg ht neg, ha, ok_bind, hv]; rfl⟩
  · rw [exec_sin, sine_nonfinite ht]; rfl

/-- Settles O8: the table has exactly 360 words. -/
theorem romReadReturnsTheTableWord : Obligations.RomReadReturnsTheTableWord := by
  obtain ⟨len, -⟩ := romImage_within
  refine ⟨fun a s ha => ?_, fun a s ha => ?_, len, by decide⟩
  · obtain ⟨v, hv, -⟩ := romWord_within ha
    exact ⟨v, romWord_eq_ok.1 hv, by rw [exec_romRead, hv]; rfl⟩
  · have beyond : romImage[a.toNat]? = none := List.getElem?_eq_none (len ▸ ha)
    rw [exec_romRead, romWord, beyond]; rfl

end Sys2Proof.Machine
end

section
/-! CMUL (R73): each of its six operations is rounded, the order of the factors does not matter, and its only fault is NonFinite
(R123). -/

namespace Sys2Proof.Machine

/-! ## The faults of the binary32 operations -/

/-- The only fault of the computation is NonFinite. -/
def OnlyNonFinite {α : Type} (c : Except Fault α) : Prop := ∀ f, c = .error f → f = .nonFinite

theorem OnlyNonFinite.ok {α : Type} (a : α) : OnlyNonFinite (.ok a) := fun _ h => nomatch h

theorem OnlyNonFinite.nonFinite {α : Type} : OnlyNonFinite (.error .nonFinite : Except Fault α) := by
  rintro f ⟨⟩; rfl

theorem OnlyNonFinite.bind {α β : Type} {c : Except Fault α} {k : α → Except Fault β} (hc : OnlyNonFinite c)
    (hk : ∀ a, OnlyNonFinite (k a)) : OnlyNonFinite (c >>= k) := by
  cases c with
  | error f => obtain rfl := hc f rfl; exact .nonFinite
  | ok a => exact hk a

theorem roundUnits_onlyNonFinite (neg : Bool) (m k : Nat) : OnlyNonFinite (roundUnits neg m k) := by
  unfold roundUnits
  dsimp only
  split
  · exact .nonFinite
  · exact .ok _

theorem fadd_onlyNonFinite (a b : F32) : OnlyNonFinite (fadd a b) := by
  unfold fadd
  split
  · split
    · exact .ok _
    · exact roundUnits_onlyNonFinite _ _ _
  · exact .nonFinite

theorem fmul_onlyNonFinite (a b : F32) : OnlyNonFinite (fmul a b) := by
  unfold fmul
  split
  · exact roundUnits_onlyNonFinite _ _ _
  · exact .nonFinite

/-! ## The complex product -/

theorem cmul_onlyNonFinite (a b : Cplx) : OnlyNonFinite (cmul a b) :=
  .bind (fmul_onlyNonFinite _ _) fun _ => .bind (fmul_onlyNonFinite _ _) fun _ => .bind (fadd_onlyNonFinite _ _) fun _ =>
    .bind (fmul_onlyNonFinite _ _) fun _ => .bind (fmul_onlyNonFinite _ _) fun _ => .bind (fadd_onlyNonFinite _ _) fun _ =>
      .ok _

/-- The order of the factors changes neither an answer nor a stop (R73). -/
theorem cmul_comm (a b : Cplx) : cmul a b = cmul b a := by
  cases hab : cmul a b with
  | ok z => exact (cmul_swap hab).symm
  | error f =>
    cases hba : cmul b a with
    | ok z => rw [cmul_swap hba] at hab; cases hab
    | error g => rw [cmul_onlyNonFinite a b f hab, cmul_onlyNonFinite b a g hba]

/-- Every part of a factor is in one of the first two products. -/
theorem cmul_nonfinite {a b : Cplx} (h : (finite a.re && finite a.im && finite b.re && finite b.im) = false) :
    cmul a b = .error .nonFinite := by
  cases hz : cmul a b with
  | error f => rw [cmul_onlyNonFinite a b f hz]
  | ok z =>
    obtain ⟨rr, ii, -, -, -, -, hrr, hii, -⟩ := cmul_eq_ok.1 hz
    obtain ⟨are, bre, -⟩ := fmul_ok _ _ _ hrr
    obtain ⟨aim, bim, -⟩ := fmul_ok _ _ _ hii
    simp [are, aim, bre, bim] at h

/-- Settles O15: the row answers with the product, or stops with its fault. -/
theorem complexProductIsCommutative : Obligations.ComplexProductIsCommutative := by
  intro a b s
  rw [exec, exec, execCmul, execCmul, cmul_comm]

/-- Settles O14: products of factors of 2^60 are at most 2^120, and their sum and difference at most 2^121. -/
theorem complexProductRoundsEachOperation : Obligations.ComplexProductRoundsEachOperation := by
  refine fun a b s => ⟨fun ⟨are, aim⟩ ⟨bre, bim⟩ => ?_, fun h => ?_⟩
  · obtain ⟨rr, hrr, brr⟩ := fmul_atMost are bre (by decide)
    obtain ⟨ii, hii, bii⟩ := fmul_atMost aim bim (by decide)
    obtain ⟨ri, hri, bri⟩ := fmul_atMost are bim (by decide)
    obtain ⟨ir, hir, bir⟩ := fmul_atMost aim bre (by decide)
    obtain ⟨re, hre, -⟩ := fadd_atMost brr (atMost_fneg bii) (by decide)
    obtain ⟨im, him, -⟩ := fadd_atMost bri bir (by decide)
    exact ⟨rr, ii, ri, ir, re, im, hrr, hii, hri, hir, hre, him,
      exec_cmul_eq_next.2 ⟨_, cmul_eq_ok.2 ⟨rr, ii, ri, ir, re, im, hrr, hii, hri, hir, hre, him, rfl⟩, rfl⟩⟩
  · rw [exec, execCmul, cmul_nonfinite h]; rfl

end Sys2Proof.Machine
end

section
/-! BITREV (R71): the Gold–Rader loop is the permutation of the index bits. Before index `i` of the loop the mirrored counter is
`rev8 i`, and the pairs with a member below `i` have been exchanged. -/

namespace Sys2Proof.Machine

/-! ## The reversed index -/

theorem rev8_eq_reverse (k : BitVec 8) : rev8 k.toNat = k.reverse.toNat := by
  revert k
  decide +kernel

theorem rev8_eq_ofNat_reverse {i : Nat} (hi : i < 256) : rev8 i = (BitVec.ofNat 8 i).reverse.toNat := by
  rw [← rev8_eq_reverse, BitVec.toNat_ofNat, Nat.mod_eq_of_lt hi]

theorem rev8_lt {i : Nat} (hi : i < 256) : rev8 i < 256 := rev8_eq_ofNat_reverse hi ▸ BitVec.isLt _

theorem rev8_rev8 {i : Nat} (hi : i < 256) : rev8 (rev8 i) = i := by
  rw [rev8_eq_ofNat_reverse hi, rev8_eq_reverse, BitVec.reverse_reverse_eq, BitVec.toNat_ofNat, Nat.mod_eq_of_lt hi]

/-- The loop of R71 keeps the mirrored counter mirrored. -/
theorem mirrorNext_rev8 : ∀ i < 255, mirrorNext 8 128 (rev8 i) = rev8 (i + 1) := by decide +kernel

/-! ## The loop -/

/-- An exchange of two elements. -/
theorem swapElems_getElem? {α : Type} {l : List α} {i j : Nat} (hi : i < l.length) (hj : j < l.length) (k : Nat) :
    (swapElems l i j)[k]? = if k = j then l[i]? else if k = i then l[j]? else l[k]? := by
  rw [swapElems, List.getElem?_eq_getElem hi, List.getElem?_eq_getElem hj, List.getElem?_set, List.getElem?_set]
  by_cases hkj : k = j
  · rw [if_pos hkj.symm, if_pos (by simpa), if_pos hkj]
  by_cases hki : k = i
  · rw [if_neg (Ne.symm hkj), if_neg hkj, if_pos hki.symm, if_pos hi, if_pos hki]
  · rw [if_neg (Ne.symm hkj), if_neg hkj, if_neg (Ne.symm hki), if_neg hki]

/-- `l` is `x` with the pairs exchanged that have a member below `i`. -/
def MirroredBelow {α : Type} (i : Nat) (x l : List α) : Prop :=
  l.length = 256 ∧ ∀ k, k < 256 → l[k]? = if k < i ∨ rev8 k < i then x[rev8 k]? else x[k]?

theorem MirroredBelow.next {α : Type} {i : Nat} {x l : List α} (h : MirroredBelow i x l) (hi : i < 256) :
    MirroredBelow (i + 1) x (if i < rev8 i then swapElems l i (rev8 i) else l) := by
  obtain ⟨len, cells⟩ := h
  have mirror := rev8_lt hi
  have back := rev8_rev8 hi
  refine ⟨by split <;> simp [swapElems_length, len], fun k hk => ?_⟩
  have backk := rev8_rev8 hk
  have here := cells i hi
  have there := cells (rev8 i) mirror
  rw [back] at there
  split
  next up =>
    rw [if_neg (by omega)] at here there
    rw [swapElems_getElem? (by omega) (by omega), here, there]
    by_cases hkj : k = rev8 i
    · subst hkj; rw [if_pos rfl, back, if_pos (by omega)]
    by_cases hki : k = i
    · subst hki; rw [if_neg hkj, if_pos rfl, if_pos (by omega)]
    · have other : rev8 k ≠ i := fun e => hkj (by rw [← e, backk])
      rw [if_neg hkj, if_neg hki, cells k hk]
      exact if_congr (by omega) rfl rfl
  next down =>
    rw [cells k hk]
    by_cases own : k = rev8 k
    · rw [← own]; split <;> split <;> rfl
    · refine if_congr ⟨fun h => by omega, fun h => ?_⟩ rfl rfl
      rcases eq_or_ne k i with rfl | hki
      · omega
      · rcases eq_or_ne (rev8 k) i with hr | hr
        · have : rev8 i = k := by rw [← hr, backk]
          omega
        · omega

theorem goldRader_mirrored {α : Type} (n : Nat) {i : Nat} {x l : List α} (hn : i + n = 255) (h : MirroredBelow i x l) :
    MirroredBelow 255 x (goldRader n i (rev8 i) l) := by
  induction n generalizing i l with
  | zero => obtain rfl : i = 255 := by omega
            exact h
  | succ n ih =>
    rw [goldRader, mirrorNext_rev8 i (by omega)]
    exact ih (by omega) (h.next (by omega))

/-- `bitrev` permutes 256 elements by `rev8` (R71). -/
theorem bitReverse_getElem? {α : Type} {x : List α} (len : x.length = 256) {k : Nat} (hk : k < 256) :
    (bitReverse x)[k]? = x[rev8 k]? := by
  have start : MirroredBelow 0 x x := ⟨len, fun k _ => by simp⟩
  obtain ⟨-, cells⟩ := goldRader_mirrored 255 (Nat.zero_add _) start
  have done := cells k hk
  have mirror := rev8_lt hk
  rcases Nat.lt_or_ge k 255 with below | last
  · rwa [if_pos (.inl below)] at done
  · obtain rfl : k = 255 := by omega
    exact done.trans (by split <;> rfl)

/-- The same, of a spectrum and an index of the row. -/
theorem bitReverse_getElem?_reverse {α : Type} {x : List α} (len : x.length = 256) (k : BitVec 8) :
    (bitReverse x)[k.toNat]? = x[k.reverse.toNat]? := by
  rw [bitReverse_getElem? len k.isLt, rev8_eq_reverse]

theorem exec_bitrev_of_answers {i : BitVec 8} {s : State} {x : List Cplx} {v : Cplx} (hx : s.work.spectrum = .ok x)
    (hv : (bitReverse x)[i.toNat]? = some v) : exec (.bitrev i) s =
      .next ((s.withWork (s.work.withSpectrum (bitReverse x))).returning (.complex v)) := by
  simp only [exec, execBitrev, finish_eq_next, bind_eq_ok, pure_eq_ok]
  exact ⟨x, hx, v, (elemOf_eq_ok _ _ _).2 hv, rfl⟩

/-- Settles O12: the loop is the permutation, and the row fills X with it. -/
theorem bitReversalPermutesTheSpectrum : Obligations.BitReversalPermutesTheSpectrum := by
  intro i s x hx
  obtain ⟨len, -⟩ := (spectrum_eq_ok _ _).1 hx
  have permuted := bitReverse_getElem?_reverse len
  obtain ⟨v, hv, -⟩ := getElem?_mem_of_lt (l := x) (i := i.reverse.toNat) (by omega)
  have row := exec_bitrev_of_answers hx ((permuted i).trans hv)
  generalize bitReverse x = y at permuted row
  exact ⟨v, _, row, fun k => (readCell_fullStore _ _).trans (permuted k), hv, rfl⟩

end Sys2Proof.Machine
end

section
/-! FFT is what R75 says stage by stage: each butterfly of a stage reads its two bins as the stage before left them, and no other
butterfly of the stage writes them. -/

namespace Sys2Proof.Machine

/-! ## One stage -/

/-- The bins `h` apart at `p` of `x` have become those of `x'` by the butterfly with the `j`-th power of the twiddle (R74). -/
def PairDone (wm : Cplx) (h j p : Nat) (x x' : List Cplx) : Prop :=
  ∃ w even odd r, twiddlePower wm j = .ok w ∧ x[p]? = some even ∧ x[p + h]? = some odd ∧
    butterflyPair w even odd = .ok r ∧ x'[p]? = some r.1 ∧ x'[p + h]? = some r.2

/-- Only the two bins of each list matter. -/
theorem PairDone.congr {wm : Cplx} {h j p : Nat} {x x' y y' : List Cplx} (done : PairDone wm h j p x x')
    (old : x[p]? = y[p]? ∧ x[p + h]? = y[p + h]?) (new : x'[p]? = y'[p]? ∧ x'[p + h]? = y'[p + h]?) :
    PairDone wm h j p y y' := by
  obtain ⟨w, even, odd, r, hw, he, ho, hr, h1, h2⟩ := done
  exact ⟨w, even, odd, r, hw, old.1 ▸ he, old.2 ▸ ho, hr, new.1 ▸ h1, new.2 ▸ h2⟩

/-- What one butterfly on the array does: its pair, and nothing else. -/
theorem butterflyAt_pair {wm w : Cplx} {h j p : Nat} {x x' : List Cplx} (pos : 0 < h) (hw : twiddlePower wm j = .ok w)
    (run : butterflyAt h p w x = .ok x') :
    PairDone wm h j p x x' ∧ ∀ q, q ≠ p → q ≠ p + h → x'[q]? = x[q]? := by
  simp only [butterflyAt, bind_eq_ok, elemOf_eq_ok, pure_eq_ok] at run
  obtain ⟨even, he, odd, ho, r, hr, rfl⟩ := run
  obtain ⟨hp, -⟩ := List.getElem?_eq_some_iff.1 he
  obtain ⟨hq, -⟩ := List.getElem?_eq_some_iff.1 ho
  refine ⟨⟨w, even, odd, r, hw, he, ho, hr, ?_, ?_⟩, fun q h1 h2 => ?_⟩
  · rw [List.getElem?_set_ne (by omega), List.getElem?_set_self hp]
  · rw [List.getElem?_set_self (by simpa using hq)]
  · rw [List.getElem?_set_ne (Ne.symm h2), List.getElem?_set_ne (Ne.symm h1)]

/-- The rest of a block (R75): butterflies `j` to `j + n − 1`, at `p` to `p + n − 1`. -/
theorem blockLoop_pairs {wm w : Cplx} {h n j p : Nat} {x x' : List Cplx} (hn : n ≤ h) (hw : twiddlePower wm j = .ok w)
    (run : blockLoop wm h n p w x = .ok x') :
    (∀ i, i < n → PairDone wm h (j + i) (p + i) x x') ∧
      ∀ q, q < p ∨ p + n ≤ q → q < p + h ∨ p + h + n ≤ q → x'[q]? = x[q]? := by
  induction n generalizing p j w x with
  | zero => cases run; exact ⟨fun i hi => absurd hi (Nat.not_lt_zero i), fun _ _ _ => rfl⟩
  | succ n ih =>
    simp only [blockLoop, bind_eq_ok] at run
    obtain ⟨y, hy, w', hw', run⟩ := run
    obtain ⟨pair, others⟩ := butterflyAt_pair (by omega) hw hy
    obtain ⟨pairs, rest⟩ := ih (j := j + 1) (by omega) (by rw [twiddlePower, hw]; exact hw') run
    refine ⟨fun i hi => ?_, fun q h1 h2 => ?_⟩
    · cases i with
      | zero => exact pair.congr ⟨rfl, rfl⟩ ⟨(rest _ (by omega) (by omega)).symm, (rest _ (by omega) (by omega)).symm⟩
      | succ i =>
        have later := pairs i (by omega)
        rw [Nat.add_assoc, Nat.add_assoc, Nat.add_comm 1] at later
        exact later.congr ⟨others _ (by omega) (by omega), others _ (by omega) (by omega)⟩ ⟨rfl, rfl⟩
    · rw [rest q (by omega) (by omega), others q (by omega) (by omega)]

/-- The rest of a stage (R75): `n` blocks from position `k`. -/
theorem stageLoop_pairs {wm : Cplx} {h n k : Nat} {x x' : List Cplx} (run : stageLoop wm h n k x = .ok x') :
    (∀ b j, b < n → j < h → PairDone wm h j (k + b * (2 * h) + j) x x') ∧ ∀ q, q < k → x'[q]? = x[q]? := by
  induction n generalizing k x with
  | zero => cases run; exact ⟨fun b _ hb => absurd hb (Nat.not_lt_zero b), fun _ _ => rfl⟩
  | succ n ih =>
    simp only [stageLoop, bind_eq_ok] at run
    obtain ⟨y, hy, run⟩ := run
    obtain ⟨block, others⟩ := blockLoop_pairs (j := 0) (Nat.le_refl h) rfl hy
    obtain ⟨blocks, before⟩ := ih run
    refine ⟨fun b j hb hj => ?_, fun q hq => by rw [before q (by omega), others q (by omega) (by omega)]⟩
    cases b with
    | zero =>
      have here := block j hj
      rw [Nat.zero_add] at here
      rw [Nat.zero_mul, Nat.add_zero]
      exact here.congr ⟨rfl, rfl⟩ ⟨(before _ (by omega)).symm, (before _ (by omega)).symm⟩
    | succ b =>
      have later := blocks b j (by omega) hj
      rw [Nat.add_assoc k, Nat.add_comm (2 * h), ← Nat.add_one_mul] at later
      have beyond : 2 * h ≤ (b + 1) * (2 * h) := Nat.le_mul_of_pos_left _ (Nat.succ_pos b)
      exact later.congr ⟨others _ (by omega) (by omega), others _ (by omega) (by omega)⟩ ⟨rfl, rfl⟩

/-- One stage (R75): every pair of bins 2^st apart, from the bins before the stage. -/
theorem fftStage_pairs {st : Nat} (h8 : st < 8) {x x' : List Cplx} (run : fftStage (st + 1) x = .ok x') :
    ∃ wm, stageTwiddle (st + 1) = .ok wm ∧ ∀ p, p < 256 → p % 2 ^ (st + 1) < 2 ^ st →
      PairDone wm (2 ^ st) (p % 2 ^ (st + 1)) p x x' := by
  obtain ⟨wm, hwm, run⟩ := (bind_eq_ok _ _ _).1 run
  obtain ⟨pairs, -⟩ := stageLoop_pairs run
  rw [Nat.add_sub_cancel] at pairs
  refine ⟨wm, hwm, fun p hp hj => ?_⟩
  have block : p / 2 ^ (st + 1) < 2 ^ (8 - (st + 1)) := by
    rw [Nat.div_lt_iff_lt_mul (Nat.two_pow_pos _), ← pow_add, Nat.sub_add_cancel h8]
    exact hp
  have place : 0 + p / 2 ^ (st + 1) * (2 * 2 ^ st) + p % 2 ^ (st + 1) = p := by
    rw [Nat.zero_add, ← pow_succ', Nat.div_add_mod']
  have pair := pairs _ _ block hj
  rwa [place] at pair

/-! ## The eight stages -/

/-- The spectrum after `st` stages from `x`; empty after a stage that stops. -/
def spectrumAfter (x : List Cplx) : Nat → List Cplx
  | 0 => x
  | st + 1 => (fftStage (st + 1) (spectrumAfter x st)).toOption.getD []

theorem spectrumAfter_succ {x y : List Cplx} {st : Nat} (h : fftStage (st + 1) (spectrumAfter x st) = .ok y) :
    spectrumAfter x (st + 1) = y := by
  rw [spectrumAfter, h]; rfl

/-- A transform that answers has answered every stage. -/
theorem fftStages_spectrumAfter {x y z : List Cplx} (n : Nat) {st : Nat} (hn : st + n = 8)
    (hz : spectrumAfter x st = z) (run : fftStages n (st + 1) z = .ok y) : spectrumAfter x 8 = y ∧
      ∀ k, st ≤ k → k < 8 → fftStage (k + 1) (spectrumAfter x k) = .ok (spectrumAfter x (k + 1)) := by
  induction n generalizing st z with
  | zero =>
    obtain rfl : st = 8 := by omega
    exact ⟨hz.trans (Except.ok.inj run), fun k h1 h2 => by omega⟩
  | succ n ih =>
    obtain ⟨u, hu, run⟩ := (bind_eq_ok _ _ _).1 run
    have next := spectrumAfter_succ (hz ▸ hu)
    obtain ⟨last, stages⟩ := ih (by omega) next run
    refine ⟨last, fun k h1 h2 => ?_⟩
    rcases Nat.eq_or_lt_of_le h1 with rfl | later
    · rw [hz, next]; exact hu
    · exact stages k later h2

/-- Bin `i` after stage `st`. -/
def binAfter (x : List Cplx) (st i : Nat) : Cplx := (spectrumAfter x st)[i]?.getD czero

theorem binAfter_eq {x : List Cplx} {st i : Nat} {z : Cplx} (h : (spectrumAfter x st)[i]? = some z) :
    binAfter x st i = z := by
  rw [binAfter, h]; rfl

/-! ## The transform -/

theorem mapChecked_getElem? {α β : Type} {f : α → Except Fault β} {l : List α} {r : List β} (h : mapChecked f l = .ok r)
    {i : Nat} {a : α} (ha : l[i]? = some a) : ∃ b, f a = .ok b ∧ r[i]? = some b := by
  have pointwise := (mapChecked_eq_ok f l r).1 h
  clear h
  induction pointwise generalizing i with
  | nil => cases ha
  | cons hb _ ih =>
    cases i with
    | zero => cases ha; exact ⟨_, hb, rfl⟩
    | succ i => exact ih ha

theorem widenComplex_eq_ok {q : Sample} {z : Cplx} :
    widenComplex q = .ok z ↔ ∃ w, widenSample q = .ok w ∧ ⟨w, fzero⟩ = z := by
  simp only [widenComplex, bind_eq_ok, pure_eq_ok]

/-- The bins before the first stage: the widened samples in bit-reversed order (R70, R71). -/
theorem bitReverse_widened {v : List Sample} {x : List Cplx} (hv : v.length = 256) (hx : mapChecked widenComplex v = .ok x)
    (i : BitVec 8) :
    ∃ q w, v[i.reverse.toNat]? = some q ∧ widenSample q = .ok w ∧ (bitReverse x)[i.toNat]? = some ⟨w, fzero⟩ := by
  obtain ⟨q, hq, -⟩ := getElem?_mem_of_lt (l := v) (i := i.reverse.toNat) (by omega)
  obtain ⟨z, hz, at_i⟩ := mapChecked_getElem? hx hq
  obtain ⟨w, hw, rfl⟩ := widenComplex_eq_ok.1 hz
  exact ⟨q, w, hq, hw, (bitReverse_getElem?_reverse ((mapChecked_length _ _ _ hx).trans hv) i).trans at_i⟩

/-- What R75 says of a transform that answers. -/
theorem isTransform_of_fftFrame {v : List Sample} {x : List Cplx} (hv : v.length = 256) (hx : fftFrame v = .ok x)
    (len : x.length = 256) : isTransform v x := by
  obtain ⟨y, hy, run⟩ := (bind_eq_ok _ _ _).1 hx
  have widened := bitReverse_widened hv hy
  generalize bitReverse y = y₀ at widened run
  obtain ⟨rfl, stages⟩ := fftStages_spectrumAfter (x := y₀) 8 (Nat.zero_add 8) rfl run
  refine ⟨binAfter y₀, fun i => ?_, fun st h1 h8 => ?_, len, fun i hi => ?_⟩
  · obtain ⟨q, w, hq, hw, bin⟩ := widened i
    exact ⟨q, w, hq, hw, binAfter_eq bin⟩
  · obtain ⟨st, rfl⟩ : ∃ k, st = k + 1 := ⟨st - 1, by omega⟩
    obtain ⟨wm, hwm, pairs⟩ := fftStage_pairs h8 (stages st (Nat.zero_le _) h8)
    refine ⟨wm, hwm, fun p hp hj => ?_⟩
    obtain ⟨w, even, odd, r, hw, he, ho, hr, h1, h2⟩ := pairs p hp hj
    obtain ⟨z, a, b, hz, ha, hb, rfl⟩ := butterflyPair_eq_ok.1 hr
    rw [Nat.add_sub_cancel, binAfter_eq he, binAfter_eq ho, binAfter_eq h1, binAfter_eq h2]
    exact ⟨w, z, hw, hz, ha, hb⟩
  · obtain ⟨z, hz, -⟩ := getElem?_mem_of_lt (l := spectrumAfter y₀ 8) (len.symm ▸ hi)
    rw [binAfter_eq hz, hz]

end Sys2Proof.Machine
end

section
/-! The bound of R76, on the moduli of the bins: each stage doubles it and adds to it no more than 8 parts in 2^24 for its
rounding, so eight stages add the 2^-18 of the rule. All moduli are in units of 2^-149. -/

namespace Sys2Proof.Machine

/-! ## The error of one rounding -/

/-- `w` is `x` up to 2^-24 of it and half a unit. -/
def NearReal (w : F32) (x : ℝ) : Prop := |(fvalue w : ℝ) - x| ≤ |x| / 2 ^ 24 + 1 / 2

theorem two_pow_roundPos_le (m k : Nat) : 2 ^ 23 * 2 ^ roundPos m k ≤ m + 2 ^ 23 * 2 ^ k := by
  rcases Nat.eq_zero_or_pos m with rfl | pos
  · simp [roundPos]
  · have log := Nat.log2_self_le pos.ne'
    unfold roundPos
    rcases Nat.le_total (m.log2 - 23) k with low | high
    · rw [max_eq_right low]; omega
    · rw [max_eq_left high, ← pow_add]
      rcases Nat.le_total 23 m.log2 with normal | small
      · rw [Nat.add_sub_cancel' normal]; omega
      · rw [Nat.sub_eq_zero_of_le small]
        have := Nat.two_pow_pos k
        omega

theorem roundUnits_magnitude_near {neg : Bool} {m k : Nat} {w : F32} (h : roundUnits neg m k = .ok w) :
    |(funits w : ℝ) - m / 2 ^ k| ≤ m / 2 ^ k / 2 ^ 24 + 1 / 2 := by
  obtain ⟨-, -, units⟩ := roundUnits_ok neg m k w h
  obtain ⟨low, high⟩ := roundShift_near m (roundPos m k)
  have place : roundShift m (roundPos m k) * 2 ^ roundPos m k = funits w * 2 ^ k := by
    rw [units, mul_assoc, ← pow_add, Nat.sub_add_cancel (le_roundPos m k)]
  rw [place] at low high
  have low : (2 * m : ℝ) ≤ 2 * (funits w * 2 ^ k) + 2 ^ roundPos m k := by exact_mod_cast low
  have high : (2 * (funits w * 2 ^ k) : ℝ) ≤ 2 * m + 2 ^ roundPos m k := by exact_mod_cast high
  have width : (2 ^ 23 * 2 ^ roundPos m k : ℝ) ≤ m + 2 ^ 23 * 2 ^ k := by exact_mod_cast two_pow_roundPos_le m k
  have hk : (0 : ℝ) < 2 ^ k := by positivity
  have scale : (m : ℝ) = m / 2 ^ k * 2 ^ k := by field_simp
  rw [abs_le]
  constructor <;> refine le_of_mul_le_mul_right ?_ hk <;> nlinarith

theorem roundUnits_near {neg : Bool} {m k : Nat} {w : F32} (h : roundUnits neg m k = .ok w) :
    NearReal w ((signed neg m : ℝ) / 2 ^ k) := by
  obtain ⟨-, sign, -⟩ := roundUnits_ok neg m k w h
  have magnitude := roundUnits_magnitude_near h
  have absolute : |(signed neg m : ℝ) / 2 ^ k| = m / 2 ^ k := by
    cases neg <;> simp [signed, abs_div]
  rw [NearReal, absolute, fvalue, sign]
  cases neg with
  | false => simpa [signed] using magnitude
  | true =>
    rw [← abs_neg]
    simpa [signed, neg_div, neg_add_eq_sub, add_comm] using magnitude

theorem fadd_near {a b w : F32} (h : fadd a b = .ok w) : NearReal w (fvalue a + fvalue b) := by
  obtain ⟨-, -, -, zero, rounds⟩ := fadd_ok a b w h
  rw [← Int.cast_add]
  by_cases h0 : fvalue a + fvalue b = 0
  · have hw : fvalue w = 0 := (fvalue_eq_zero_iff w).2 (zero h0)
    simp [NearReal, h0, hw]
  · have near := roundUnits_near (rounds h0)
    rwa [signed_natAbs, pow_zero, div_one] at near

theorem fsub_near {a b w : F32} (h : fsub a b = .ok w) : NearReal w (fvalue a - fvalue b) := by
  have near := fadd_near h
  rwa [fvalue_fneg, Int.cast_neg, ← sub_eq_add_neg] at near

theorem fmul_near {a b w : F32} (h : fmul a b = .ok w) : NearReal w (fvalue a * fvalue b / 2 ^ 149) := by
  obtain ⟨-, -, rounds⟩ := fmul_ok a b w h
  have near := roundUnits_near rounds
  rwa [signed_mul, Int.cast_mul] at near

/-! ## Moduli -/

/-- The exact value of a ComplexValue, in units of 2^-149. -/
noncomputable def valueOf (z : Cplx) : ℂ := ⟨fvalue z.re, fvalue z.im⟩

@[simp] theorem valueOf_re (z : Cplx) : (valueOf z).re = fvalue z.re := rfl

@[simp] theorem valueOf_im (z : Cplx) : (valueOf z).im = fvalue z.im := rfl

/-- A value whose parts are each near to those of `c`, up to `e`. -/
theorem norm_sub_le_of_parts {z c : ℂ} {e : ℝ} (hre : |z.re - c.re| ≤ e) (him : |z.im - c.im| ≤ e) : ‖z - c‖ ≤ 2 * e := by
  have := Complex.norm_le_abs_re_add_abs_im (z - c)
  rw [Complex.sub_re, Complex.sub_im] at this
  linarith

/-- Both parts of `z` are near to those of `c`. -/
theorem norm_sub_le_of_near {z : Cplx} {c : ℂ} (hre : NearReal z.re c.re) (him : NearReal z.im c.im) :
    ‖valueOf z - c‖ ≤ 2 * (‖c‖ / 2 ^ 24 + 1 / 2) := by
  have re := Complex.abs_re_le_norm c
  have im := Complex.abs_im_le_norm c
  unfold NearReal at hre him
  refine norm_sub_le_of_parts ?_ ?_ <;> simp only [valueOf_re, valueOf_im] <;> linarith

theorem cadd_eq_ok {a b z : Cplx} : cadd a b = .ok z ↔ fadd a.re b.re = .ok z.re ∧ fadd a.im b.im = .ok z.im := by
  simp only [cadd, bind_eq_ok, pure_eq_ok]
  constructor
  · rintro ⟨re, hre, im, him, rfl⟩; exact ⟨hre, him⟩
  · rintro ⟨hre, him⟩; exact ⟨_, hre, _, him, rfl⟩

theorem csub_eq_ok {a b z : Cplx} : csub a b = .ok z ↔ fsub a.re b.re = .ok z.re ∧ fsub a.im b.im = .ok z.im := by
  simp only [csub, bind_eq_ok, pure_eq_ok]
  constructor
  · rintro ⟨re, hre, im, him, rfl⟩; exact ⟨hre, him⟩
  · rintro ⟨hre, him⟩; exact ⟨_, hre, _, him, rfl⟩

theorem cadd_near {a b z : Cplx} (h : cadd a b = .ok z) :
    ‖valueOf z - (valueOf a + valueOf b)‖ ≤ 2 * (‖valueOf a + valueOf b‖ / 2 ^ 24 + 1 / 2) := by
  obtain ⟨hre, him⟩ := cadd_eq_ok.1 h
  exact norm_sub_le_of_near (fadd_near hre) (fadd_near him)

theorem csub_near {a b z : Cplx} (h : csub a b = .ok z) :
    ‖valueOf z - (valueOf a - valueOf b)‖ ≤ 2 * (‖valueOf a - valueOf b‖ / 2 ^ 24 + 1 / 2) := by
  obtain ⟨hre, him⟩ := csub_eq_ok.1 h
  exact norm_sub_le_of_near (fsub_near hre) (fsub_near him)

/-! ## The complex product -/

theorem NearReal.neg {w : F32} {x : ℝ} (h : NearReal w x) : NearReal (fneg w) (-x) := by
  rw [NearReal, fvalue_fneg, Int.cast_neg, ← abs_neg, neg_sub_neg, neg_sub, abs_neg]
  exact h

/-- A rounded sum of two rounded terms, where the exact terms together are at most `n`. -/
theorem fadd_near_of_near {p q w : F32} {x y n : ℝ} (hp : NearReal p x) (hq : NearReal q y) (hw : fadd p q = .ok w)
    (bound : |x| + |y| ≤ n) : |(fvalue w : ℝ) - (x + y)| ≤ 5 / 2 * n / 2 ^ 24 + 2 := by
  have last := fadd_near hw
  unfold NearReal at hp hq last
  have exact_sum := (abs_add_le x y).trans bound
  have error := abs_add_le ((fvalue p : ℝ) - x) (fvalue q - y)
  have whole := abs_add_le ((fvalue p : ℝ) - x + (fvalue q - y)) (x + y)
  have split := abs_add_le ((fvalue w : ℝ) - (fvalue p + fvalue q)) ((fvalue p : ℝ) - x + (fvalue q - y))
  rw [show (fvalue p : ℝ) - x + (fvalue q - y) + (x + y) = fvalue p + fvalue q by ring] at whole
  rw [show (fvalue w : ℝ) - (fvalue p + fvalue q) + (fvalue p - x + (fvalue q - y)) = fvalue w - (x + y) by ring] at split
  linarith [abs_nonneg x, abs_nonneg y]

/-- The two products in a part of a complex product are together at most the product of the moduli. -/
theorem abs_mul_add_abs_mul_le {a b c d r t : ℝ} (hr : 0 ≤ r) (ht : 0 ≤ t) (ha : a ^ 2 + b ^ 2 = r ^ 2)
    (hc : c ^ 2 + d ^ 2 = t ^ 2) : |a * c| + |b * d| ≤ r * t := by
  refine (abs_le_of_sq_le_sq' ?_ (mul_nonneg hr ht)).2
  rw [abs_mul, abs_mul, mul_pow, ← ha, ← hc, ← sq_abs a, ← sq_abs b, ← sq_abs c, ← sq_abs d]
  nlinarith [sq_nonneg (|a| * |d| - |b| * |c|)]

/-- The exact product, in units of 2^-149. -/
noncomputable def exactProduct (a b : Cplx) : ℂ := valueOf a * valueOf b / ((2 ^ 149 : ℝ) : ℂ)

theorem exactProduct_re (a b : Cplx) : (exactProduct a b).re =
    fvalue a.re * fvalue b.re / 2 ^ 149 + -(fvalue a.im * fvalue b.im / 2 ^ 149) := by
  rw [exactProduct, Complex.div_ofReal_re, Complex.mul_re, sub_div, sub_eq_add_neg]; rfl

theorem exactProduct_im (a b : Cplx) : (exactProduct a b).im =
    fvalue a.re * fvalue b.im / 2 ^ 149 + fvalue a.im * fvalue b.re / 2 ^ 149 := by
  rw [exactProduct, Complex.div_ofReal_im, Complex.mul_im, add_div]; rfl

theorem norm_exactProduct (a b : Cplx) : ‖exactProduct a b‖ = ‖valueOf a‖ * ‖valueOf b‖ / 2 ^ 149 := by
  simp [exactProduct]

theorem sq_parts_valueOf (z : Cplx) : (fvalue z.re : ℝ) ^ 2 + (fvalue z.im : ℝ) ^ 2 = ‖valueOf z‖ ^ 2 := by
  rw [Complex.sq_norm, Complex.normSq_apply, valueOf_re, valueOf_im]; ring

theorem cmul_near {a b z : Cplx} (h : cmul a b = .ok z) :
    ‖valueOf z - exactProduct a b‖ ≤ 2 * (5 / 2 * ‖exactProduct a b‖ / 2 ^ 24 + 2) := by
  obtain ⟨rr, ii, ri, ir, re, im, hrr, hii, hri, hir, hre, him, rfl⟩ := cmul_eq_ok.1 h
  have products {u v w x : ℝ} (hu : u ^ 2 + v ^ 2 = ‖valueOf a‖ ^ 2) (hw : w ^ 2 + x ^ 2 = ‖valueOf b‖ ^ 2) :
      |u * w / 2 ^ 149| + |v * x / 2 ^ 149| ≤ ‖exactProduct a b‖ := by
    rw [norm_exactProduct, abs_div, abs_div, ← add_div, abs_of_pos (show (0 : ℝ) < 2 ^ 149 by positivity)]
    exact div_le_div_of_nonneg_right (abs_mul_add_abs_mul_le (norm_nonneg _) (norm_nonneg _) hu hw) (by positivity)
  have real := products (sq_parts_valueOf a) (sq_parts_valueOf b)
  have imaginary := products (sq_parts_valueOf a) ((add_comm _ _).trans (sq_parts_valueOf b))
  refine norm_sub_le_of_parts ?_ ?_
  · rw [exactProduct_re]
    exact fadd_near_of_near (fmul_near hrr) (fmul_near hii).neg hre (by rwa [abs_neg])
  · rw [exactProduct_im]
    exact fadd_near_of_near (fmul_near hri) (fmul_near hir) him imaginary

/-! ## A butterfly -/

theorem norm_valueOf_of_inUnitDisc {w : Cplx} (h : inUnitDisc w = true) : ‖valueOf w‖ ≤ 2 ^ 149 := by
  obtain ⟨-, -, disc⟩ := (inUnitDisc_iff w).1 h
  rw [show 298 = 149 * 2 from rfl, pow_mul] at disc
  have square : (fvalue w.re : ℝ) * fvalue w.re + fvalue w.im * fvalue w.im ≤ (2 ^ 149) ^ 2 := by exact_mod_cast disc
  refine (abs_le_of_sq_le_sq' ?_ (by positivity)).2
  calc ‖valueOf w‖ ^ 2 = fvalue w.re * fvalue w.re + fvalue w.im * fvalue w.im := by rw [← sq_parts_valueOf]; ring
    _ ≤ (2 ^ 149) ^ 2 := square

/-- A modulus, from that of what the value is near to. -/
theorem norm_le_of_near {z c : ℂ} {e : ℝ} (h : ‖z - c‖ ≤ e) : ‖z‖ ≤ ‖c‖ + e := by
  have := norm_add_le (z - c) c
  rw [sub_add_cancel] at this
  linarith

/-- With a twiddle in the unit disc a product is hardly longer than its other factor. -/
theorem norm_cmul_le {w odd z : Cplx} {m : ℝ} (hw : inUnitDisc w = true) (ho : ‖valueOf odd‖ ≤ m)
    (hz : cmul w odd = .ok z) : ‖valueOf z‖ ≤ m + 5 * m / 2 ^ 24 + 4 := by
  have product : ‖exactProduct w odd‖ ≤ m := by
    rw [norm_exactProduct, div_le_iff₀ (by positivity), mul_comm m]
    exact mul_le_mul (norm_valueOf_of_inUnitDisc hw) ho (norm_nonneg _) (by positivity)
  have near := norm_le_of_near (cmul_near hz)
  linarith

/-- A rounded sum of two values. -/
theorem norm_le_of_sum {z : Cplx} {e t : ℂ} {m n : ℝ} (he : ‖e‖ ≤ m) (ht : ‖t‖ ≤ n)
    (hz : ‖valueOf z - (e + t)‖ ≤ 2 * (‖e + t‖ / 2 ^ 24 + 1 / 2)) : ‖valueOf z‖ ≤ m + n + 2 * (m + n) / 2 ^ 24 + 1 := by
  have near := norm_le_of_near hz
  have sum := norm_add_le e t
  linarith

/-- Both bins of a butterfly are at most twice as long as the old ones, but for the rounding (R76). -/
theorem norm_butterfly_le {w even odd z a b : Cplx} {m : ℝ} (hw : inUnitDisc w = true) (he : ‖valueOf even‖ ≤ m)
    (ho : ‖valueOf odd‖ ≤ m) (hz : cmul w odd = .ok z) (ha : cadd even z = .ok a) (hb : csub even z = .ok b) :
    ‖valueOf a‖ ≤ 2 * m + 10 * m / 2 ^ 24 + 6 ∧ ‖valueOf b‖ ≤ 2 * m + 10 * m / 2 ^ 24 + 6 := by
  have hm : 0 ≤ m := (norm_nonneg _).trans he
  have product := norm_cmul_le hw ho hz
  have sum := norm_le_of_sum he product (cadd_near ha)
  have difference := norm_le_of_sum he ((norm_neg _).trans_le product) (csub_near hb)
  constructor <;> linarith

/-! ## The stages -/

/-- The bound on the modulus of a bin after stage `st`, in units of 2^-149. -/
def modulusBound (st : Nat) : Nat := 2 ^ st * (2 ^ 24 + 8 * st) * 2 ^ 140

theorem modulusBound_succ {st : Nat} (h : st < 8) :
    2 * (modulusBound st : ℝ) + 10 * modulusBound st / 2 ^ 24 + 6 ≤ modulusBound (st + 1) := by
  have small : (st : ℝ) ≤ 7 := by exact_mod_cast (show st ≤ 7 by omega)
  have pos : (1 : ℝ) ≤ 2 ^ st := one_le_pow₀ (by norm_num)
  simp only [modulusBound, pow_succ' 2 st]
  push_cast
  nlinarith

/-- A bin within the bound after stage `st`. -/
def ModulusWithin (st : Nat) (z : Cplx) : Prop :=
  finite z.re = true ∧ finite z.im = true ∧ ‖valueOf z‖ ≤ modulusBound st

theorem butterfly_modulusWithin {st : Nat} (h : st < 8) {w even odd z a b : Cplx} (hw : inUnitDisc w = true)
    (he : ModulusWithin st even) (ho : ModulusWithin st odd) (hz : cmul w odd = .ok z) (ha : cadd even z = .ok a)
    (hb : csub even z = .ok b) : ModulusWithin (st + 1) a ∧ ModulusWithin (st + 1) b := by
  obtain ⟨-, -, me⟩ := he
  obtain ⟨-, -, mo⟩ := ho
  obtain ⟨ma, mb⟩ := norm_butterfly_le hw me mo hz ha hb
  obtain ⟨are, aim⟩ := cadd_eq_ok.1 ha
  obtain ⟨bre, bim⟩ := csub_eq_ok.1 hb
  have grows := modulusBound_succ h
  exact ⟨⟨(fadd_ok _ _ _ are).2.2.1, (fadd_ok _ _ _ aim).2.2.1, ma.trans grows⟩,
    ⟨(fadd_ok _ _ _ bre).2.2.1, (fadd_ok _ _ _ bim).2.2.1, mb.trans grows⟩⟩

/-- A widened sample is at most 32768 (R76). -/
theorem widened_modulusWithin {q : Sample} {w : F32} (h : widenSample q = .ok w) : ModulusWithin 0 ⟨w, fzero⟩ := by
  have range : q.toInt.natAbs ≤ 32768 := by
    have := q.le_toInt; have := q.toInt_lt; simp at *; omega
  obtain ⟨w', hw', ⟨fw, uw⟩, -⟩ := f32OfInt_within range (by decide)
  obtain rfl : w' = w := Except.ok.inj (hw'.symm.trans h)
  refine ⟨fw, (by decide : finite fzero = true), ?_⟩
  have real : valueOf ⟨w', fzero⟩ = ((fvalue w' : ℝ) : ℂ) := Complex.ext rfl (by simp [show fvalue fzero = 0 by decide])
  rw [real, Complex.norm_real, Real.norm_eq_abs, ← Int.cast_abs, ← Int.natCast_natAbs, fvalue_natAbs, Int.cast_natCast]
  exact_mod_cast uw.trans (by decide)

/-- Each bin belongs to one pair of a stage. -/
theorem pair_of_bin {st p : Nat} (h : st < 8) (hp : p < 256) :
    ∃ q, q + 2 ^ st < 256 ∧ q % 2 ^ (st + 1) < 2 ^ st ∧ (p = q ∨ p = q + 2 ^ st) := by
  have width : 2 ^ (st + 1) = 2 ^ st + 2 ^ st := by rw [pow_succ, mul_two]
  have group : p / 2 ^ (st + 1) < 2 ^ (8 - (st + 1)) := by
    rw [Nat.div_lt_iff_lt_mul (Nat.two_pow_pos _), ← pow_add, Nat.sub_add_cancel h]
    exact hp
  have ends := Nat.mul_le_mul_left (2 ^ (st + 1)) (Nat.succ_le_of_lt group)
  rw [← pow_add, Nat.add_sub_cancel' h, Nat.mul_succ] at ends
  have place := Nat.div_add_mod p (2 ^ (st + 1))
  have below := Nat.mod_lt p (Nat.two_pow_pos (st + 1))
  rcases Nat.lt_or_ge (p % 2 ^ (st + 1)) (2 ^ st) with first | second
  · exact ⟨p, by omega, first, .inl rfl⟩
  · refine ⟨2 ^ (st + 1) * (p / 2 ^ (st + 1)) + (p % 2 ^ (st + 1) - 2 ^ st), by omega, ?_, .inr (by omega)⟩
    rw [Nat.mul_add_mod, Nat.mod_eq_of_lt (by omega)]
    omega

/-- A stage takes bins within its bound to bins within the next (R76). -/
theorem stage_modulusWithin {st : Nat} (h : st < 8) {f g : Nat → Cplx} {wm : Cplx} (hwm : stageTwiddle (st + 1) = .ok wm)
    (before : ∀ p, p < 256 → ModulusWithin st (f p))
    (pairs : ∀ p, p < 256 → p % 2 ^ (st + 1) < 2 ^ st → ∃ w z, twiddlePower wm (p % 2 ^ (st + 1)) = .ok w ∧
      cmul w (f (p + 2 ^ st)) = .ok z ∧ cadd (f p) z = .ok (g p) ∧ csub (f p) z = .ok (g (p + 2 ^ st))) :
    ∀ p, p < 256 → ModulusWithin (st + 1) (g p) := by
  have pair (q : Nat) (hq : q + 2 ^ st < 256) (hj : q % 2 ^ (st + 1) < 2 ^ st) :
      ModulusWithin (st + 1) (g q) ∧ ModulusWithin (st + 1) (g (q + 2 ^ st)) := by
    obtain ⟨w, z, hw, hz, ha, hb⟩ := pairs q (by omega) hj
    obtain ⟨w', hw', disc⟩ := twiddlePower_inUnitDisc (Nat.le_add_left 1 st) h hwm hj
    obtain rfl : w = w' := Except.ok.inj (hw.symm.trans hw')
    exact butterfly_modulusWithin h disc (before q (by omega)) (before _ hq) hz ha hb
  intro p hp
  obtain ⟨q, inside, first, rfl | rfl⟩ := pair_of_bin h hp
  · exact (pair p inside first).1
  · exact (pair q inside first).2

/-- The bins of a transform (R76). -/
theorem isTransform_modulusWithin {v : List Sample} {x : List Cplx} (h : isTransform v x) :
    ∀ z ∈ x, ModulusWithin 8 z := by
  obtain ⟨f, start, stages, len, last⟩ := h
  have bins (st : Nat) (hst : st ≤ 8) : ∀ p, p < 256 → ModulusWithin st (f st p) := by
    induction st with
    | zero =>
      intro p hp
      obtain ⟨q, w, -, hw, bin⟩ := start (BitVec.ofNat 8 p)
      rw [BitVec.toNat_ofNat, Nat.mod_eq_of_lt hp] at bin
      exact bin ▸ widened_modulusWithin hw
    | succ st ih =>
      obtain ⟨wm, hwm, pairs⟩ := stages (st + 1) (Nat.le_add_left 1 st) hst
      exact stage_modulusWithin hst hwm (ih (Nat.le_of_lt hst)) pairs
  intro z hz
  obtain ⟨i, hi, rfl⟩ := List.getElem_of_mem hz
  have bin := last i (len ▸ hi)
  rw [List.getElem?_eq_getElem hi, Option.some.injEq] at bin
  exact bin ▸ bins 8 (Nat.le_refl 8) i (len ▸ hi)

theorem parts_le_of_norm {z : Cplx} {n : Nat} (h : ‖valueOf z‖ ≤ n) : funits z.re ≤ n ∧ funits z.im ≤ n := by
  have part {a : F32} (ha : |(fvalue a : ℝ)| ≤ ‖valueOf z‖) : funits a ≤ n := by
    rw [← Int.cast_abs, ← Int.natCast_natAbs, fvalue_natAbs, Int.cast_natCast] at ha
    exact_mod_cast ha.trans h
  exact ⟨part (Complex.abs_re_le_norm (valueOf z)), part (Complex.abs_im_le_norm (valueOf z))⟩

/-- Every frame has its transform, within the bound of R76. -/
theorem fftFrame_bounded {v : List Sample} (hv : v.length = 256) :
    ∃ x, fftFrame v = .ok x ∧ isTransform v x ∧ x.length = 256 ∧ ∀ z ∈ x, finite z.re = true ∧ finite z.im = true ∧
      funits z.re ≤ 8388640 * 2 ^ 149 ∧ funits z.im ≤ 8388640 * 2 ^ 149 := by
  obtain ⟨x, hx, len, -⟩ := fftFrame_within hv
  have transform := isTransform_of_fftFrame hv hx len
  refine ⟨x, hx, transform, len, fun z hz => ?_⟩
  obtain ⟨fre, fim, modulus⟩ := isTransform_modulusWithin transform z hz
  obtain ⟨re, im⟩ := parts_le_of_norm modulus
  have bound : modulusBound 8 = 8388640 * 2 ^ 149 := by decide
  exact ⟨fre, fim, bound ▸ re, bound ▸ im⟩

/-- Settles O18: after eight stages the modulus of a bin is at most `modulusBound 8`, the bound of R76. -/
theorem fftBinsStayBelowTheirBound : Obligations.FftBinsStayBelowTheirBound := by
  intro v hv
  obtain ⟨x, hx, -, len, bins⟩ := fftFrame_bounded hv
  exact ⟨x, hx, len, bins⟩

/-! ## The row -/

theorem exec_fft_of_answers {k : BitVec 8} {s : State} {v : List Sample} {x : List Cplx} {z : Cplx}
    (hv : s.finSamples = .ok v) (hx : fftFrame v = .ok x) (hz : x[k.toNat]? = some z) :
    exec (.fft k) s = .next ((s.withWork (s.work.withSpectrum x)).returning (.complex z)) := by
  simp only [exec, execFft, finish_eq_next, bind_eq_ok, pure_eq_ok]
  exact ⟨v, hv, x, hx, z, (elemOf_eq_ok _ _ _).2 hz, rfl⟩

/-- Settles O17: FIN holds 256 Samples, whose transform the row fills X with. -/
theorem fftTransformsEveryFrame : Obligations.FftTransformsEveryFrame := by
  intro k s v hv
  obtain ⟨x, hx, transform, len, bins⟩ := fftFrame_bounded (finSamples_spec hv).1
  obtain ⟨z, hz, -⟩ := getElem?_mem_of_lt (l := x) (i := k.toNat) (by omega)
  refine ⟨x, z, _, hx, transform, fun y hy => ?_, exec_fft_of_answers hv hx hz, fun i _ => readCell_fullStore x i, hz, rfl⟩
  obtain ⟨fre, fim, re, im⟩ := bins y hy
  have crude : 8388640 * 2 ^ 149 ≤ 2 ^ (149 + 28) := by decide
  exact ⟨⟨fre, re.trans crude⟩, fim, im.trans crude⟩

end Sys2Proof.Machine
end

section
/-! The length of the sequencer's schedule (R95, R120): every operation takes one off the number of operations left, and the last
leaves in the pipeline's storage what `filterFrame` gives. -/

namespace Sys2Proof.Machine

/-! ## The operations left -/

/-- The operations of the loops after this one. -/
def opsAfter : PipePhase → Nat
  | .widen => 2049
  | .bitrev => 2048
  | .stages => 1024
  | .mask => 768
  | .phases => 512
  | .sums => 256
  | .narrow => 0

/-- The operations left in this loop. -/
def opsInLoop (p : Pipeline) : Nat :=
  match p.phase with
  | .bitrev => 1
  | .stages => 1024 - (128 * (p.stageCtr - 1) + p.blockCtr / 2 + p.indexCtr)
  | _ => 256 - p.indexCtr

/-- The operations left of the schedule. -/
def opsLeft (p : Pipeline) : Nat := opsAfter p.phase + opsInLoop p

/-- A turn of a loop of 256 takes one off, also where it leads to the next loop. -/
theorem opsLeft_nextIndex {s : State} {next : PipePhase} {n : Nat} (hi : s.pipe.indexCtr < 256)
    (loop : ∀ j, opsInLoop { s.pipe with indexCtr := j } = 256 - j)
    (start : opsLeft (s.atPhase next n).pipe = opsAfter s.pipe.phase) :
    opsLeft (s.nextIndex next n).pipe + 1 = opsLeft s.pipe := by
  have here := loop s.pipe.indexCtr
  have left : opsLeft s.pipe = opsAfter s.pipe.phase + (256 - s.pipe.indexCtr) := congrArg (opsAfter s.pipe.phase + ·) here
  by_cases more : s.pipe.indexCtr < 255
  · rw [State.nextIndex_more _ _ more, left]
    have turn : opsLeft { s.pipe with indexCtr := s.pipe.indexCtr + 1 } = opsAfter s.pipe.phase + (256 - (s.pipe.indexCtr + 1)) :=
      congrArg (opsAfter s.pipe.phase + ·) (loop _)
    show opsLeft { s.pipe with indexCtr := s.pipe.indexCtr + 1 } + 1 = _
    omega
  · rw [State.nextIndex_last _ _ more, left, start]
    omega

/-- A butterfly takes one off, also where it leads to the next block, stage or loop. -/
theorem opsLeft_nextButterfly {s : State} {nb : Nat} (ph : s.pipe.phase = .stages) (h1 : 1 ≤ s.pipe.stageCtr)
    (h8 : s.pipe.stageCtr ≤ 8) (hi : s.pipe.indexCtr < 2 ^ (s.pipe.stageCtr - 1))
    (hb : s.pipe.blockCtr + 2 * 2 ^ (s.pipe.stageCtr - 1) * (nb + 1) = 256) :
    opsLeft s.nextButterfly.pipe + 1 = opsLeft s.pipe := by
  have block : s.pipe.blockCtr + 2 * 2 ^ (s.pipe.stageCtr - 1) ≤ 256 := by
    rw [Nat.mul_succ] at hb; omega
  have even : s.pipe.blockCtr % 2 = 0 := by
    rw [mul_assoc] at hb; omega
  simp only [State.nextButterfly]
  split_ifs with inBlock inStage inStages <;> simp [opsLeft, opsAfter, opsInLoop, ph] <;> omega

/-- What is in PROCESSING still after an operation of the sequencer has one operation less to do. -/
theorem Progress.opsLeft_pipeOp {v : List Sample} {s t : State} (h : Progress v s) (ht : Machine.pipeOp s = .ok t)
    (still : t.cons.state = codeProcessing) : opsLeft t.pipe + 1 = opsLeft s.pipe := by
  cases h with
  | widen ph hi =>
    obtain ⟨q, z, -, -, rfl⟩ := (Machine.pipeOp_widen s t ph).1 ht
    exact opsLeft_nextIndex hi (by simp [opsInLoop, ph]) (by simp [opsLeft, opsAfter, opsInLoop, ph])
  | bitrev ph =>
    obtain ⟨x, -, rfl⟩ := (Machine.pipeOp_bitrev s t ph).1 ht
    simp [opsLeft, opsAfter, opsInLoop, ph]
  | stages ph x wm w nb h1 h8 hi hb =>
    obtain ⟨_, _, _, _, _, -, -, -, -, -, rfl⟩ := (Machine.pipeOp_stages s t ph).1 ht
    exact opsLeft_nextButterfly ph h1 h8 hi hb
  | mask ph hi =>
    obtain rfl := (Machine.pipeOp_mask s t ph).1 ht
    exact opsLeft_nextIndex hi (by simp [opsInLoop, ph]) (by simp [opsLeft, opsAfter, opsInLoop, ph])
  | phases ph hi =>
    obtain ⟨c, -, rfl⟩ := (Machine.pipeOp_phases s t ph).1 ht
    exact opsLeft_nextIndex hi (by simp [opsInLoop, ph]) (by simp [opsLeft, opsAfter, opsInLoop, ph])
  | sums ph hi =>
    obtain ⟨_, _, _, _, -, -, -, -, rfl⟩ := (Machine.pipeOp_sums s t ph).1 ht
    exact opsLeft_nextIndex hi (by simp [opsInLoop, ph]) (by simp [opsLeft, opsAfter, opsInLoop, ph])
  | narrow ph hi =>
    obtain ⟨y, o, -, -, rfl⟩ := (Machine.pipeOp_narrow s t ph).1 ht
    by_cases more : s.pipe.indexCtr < 255
    · simp only [more, if_true]
      rw [State.nextIndex_more _ _ (by exact more)]
      simp [opsLeft, opsAfter, opsInLoop, ph]
      omega
    · simp [more, codeProcessing, codeEmitting] at still

theorem Progress.opsLeft_pos {v : List Sample} {s : State} (h : Progress v s) : 0 < opsLeft s.pipe := by
  cases h with
  | narrow ph hi => simp [opsLeft, opsAfter, opsInLoop, ph]; omega
  | _ => simp [opsLeft, opsAfter, *]

/-! ## What a run leaves -/

/-- The pipeline's storage holds what `filterFrame` gives. -/
structure Filtered.StoredIn (r : Filtered) (w : Workspace) : Prop where
  x : Stored w.x r.x
  cosp : Stored w.cosp (r.table.map Cplx.re)
  sinp : Stored w.sinp (r.table.map Cplx.im)
  y : Stored w.y r.y

/-- PROCESSING under way on the Samples `v` of FIN, which `filterFrame` takes to `r`. In its last loop the sequencer only reads
the pipeline's storage. -/
structure OnSchedule (v : List Sample) (r : Filtered) (s : State) : Prop where
  samples : s.finSamples = .ok v
  filtered : filterFrame s.cfg.kMin s.cfg.kMax v = .ok r
  processing : s.cons.state = codeProcessing
  progress : Progress v s
  outputs : s.pipe.phase = .narrow → r.StoredIn s.pipe.toWorkspace

/-- PROCESSING has ended, with the sequencer at its first loop again. -/
structure ScheduleEnded (v : List Sample) (r : Filtered) (s : State) : Prop where
  published : Published v s
  outputs : r.StoredIn s.pipe.toWorkspace
  counters : s.pipe = { s.pipe with phase := .widen, stageCtr := 0, blockCtr := 0, indexCtr := 0 }

/-- The run at its start, right after a dequeue (R116). -/
theorem OnSchedule.start {v : List Sample} {s : State} (hv : s.finSamples = .ok v) (hp : s.cons.state = codeProcessing)
    (phase : s.pipe.phase = .widen) (index : s.pipe.indexCtr = 0) :
    ∃ r, OnSchedule v r s ∧ opsLeft s.pipe = 2305 := by
  obtain ⟨r, hr⟩ := filterFrame_answers s.cfg.kMin s.cfg.kMax (finSamples_spec hv).1
  exact ⟨r, ⟨hv, hr, hp, .widen phase (by omega) (index ▸ .zero), by simp [phase]⟩,
    by simp [opsLeft, opsAfter, opsInLoop, phase, index]⟩

theorem Progress.stored_of_sums {v : List Sample} {r : Filtered} {s : State} (h : Progress v s)
    (ph : s.pipe.phase = .sums) (hr : filterFrame s.cfg.kMin s.cfg.kMax v = .ok r) :
    Stored s.pipe.x r.x ∧ Stored s.pipe.cosp (r.table.map Cplx.re) ∧ Stored s.pipe.sinp (r.table.map Cplx.im) := by
  obtain ⟨x', hx', masked, ht', -⟩ := (filterFrame_eq_ok _ _ _ _).1 hr
  cases h with
  | sums _ _ x table hx stored ht hc hs =>
    obtain rfl : x = x' := Except.ok.inj (hx.symm.trans hx')
    obtain rfl : table = r.table := Except.ok.inj (ht.symm.trans ht')
    exact ⟨masked ▸ stored, hc, hs⟩
  | _ other => exact absurd (other.symm.trans ph) (by decide)

theorem Progress.stored_of_narrow {v : List Sample} {r : Filtered} {s : State} (h : Progress v s)
    (ph : s.pipe.phase = .narrow) (hr : filterFrame s.cfg.kMin s.cfg.kMax v = .ok r) : Stored s.pipe.y r.y := by
  obtain ⟨x', hx', masked, ht', hy', -⟩ := (filterFrame_eq_ok _ _ _ _).1 hr
  cases h with
  | narrow _ _ x table y hx ht hy stored =>
    obtain rfl : x = x' := Except.ok.inj (hx.symm.trans hx')
    obtain rfl : table = r.table := Except.ok.inj (ht.symm.trans ht')
    obtain rfl : y = r.y := Except.ok.inj (hy.symm.trans (masked ▸ hy'))
    exact stored
  | _ other => exact absurd (other.symm.trans ph) (by decide)

/-- Only the output sums lead to the narrowing. -/
theorem phase_of_narrow_next {v : List Sample} {s t : State} (h : Progress v s) (ht : pipeOp s = .ok t)
    (still : t.cons.state = codeProcessing) (next : t.pipe.phase = .narrow) :
    s.pipe.phase = .sums ∨ s.pipe.phase = .narrow := by
  have count := h.opsLeft_pipeOp ht still
  simp only [opsLeft, opsInLoop, next] at count
  cases ph : s.pipe.phase with
  | sums => exact .inl rfl
  | narrow => exact .inr rfl
  | _ => simp only [ph, opsAfter] at count; omega

theorem pipeOp_narrow_toWorkspace {s t : State} (ph : s.pipe.phase = .narrow) (ht : pipeOp s = .ok t) :
    t.pipe.toWorkspace = s.pipe.toWorkspace := by
  obtain ⟨y, o, -, -, rfl⟩ := (pipeOp_narrow s t ph).1 ht
  dsimp only
  split <;> simp

/-- The storage where the narrowing begins or goes on. -/
theorem OnSchedule.outputs_pipeOp {v : List Sample} {r : Filtered} {s t : State} (h : OnSchedule v r s)
    (ht : pipeOp s = .ok t) (still : t.cons.state = codeProcessing) (progress : Progress v t)
    (next : t.pipe.phase = .narrow) : r.StoredIn t.pipe.toWorkspace := by
  obtain ph | ph := phase_of_narrow_next h.progress ht still next
  · obtain ⟨hx, hc, hs⟩ := h.progress.stored_of_sums ph h.filtered
    have hy := progress.stored_of_narrow next ((pipeOp_pipelineOnly ht).cfg ▸ h.filtered)
    obtain ⟨_, _, _, _, -, -, -, -, rfl⟩ := (pipeOp_sums s t ph).1 ht
    rw [State.nextIndex_toWorkspace] at hy ⊢
    exact ⟨hx, hc, hs, hy⟩
  · rw [pipeOp_narrow_toWorkspace ph ht]
    exact h.outputs ph

/-- The operation that ends PROCESSING (R117): the last of the narrowing, which leaves the sequencer at its first loop. -/
theorem OnSchedule.ended {v : List Sample} {r : Filtered} {s t : State} (h : OnSchedule v r s) (ht : pipeOp s = .ok t)
    (published : Published v t) : ScheduleEnded v r t := by
  have left : t.cons.state ≠ codeProcessing := by rw [published.state]; decide
  have ph : s.pipe.phase = .narrow := by
    by_contra other
    exact left ((congrArg Consumer.state (pipeOp_cons ht other)).trans h.processing)
  refine ⟨published, pipeOp_narrow_toWorkspace ph ht ▸ h.outputs ph, ?_⟩
  obtain ⟨y, o, -, -, rfl⟩ := (pipeOp_narrow s t ph).1 ht
  by_cases more : s.pipe.indexCtr < 255
  · exact absurd (by simp [more, h.processing]) left
  · simp only [more, if_false]
    rw [State.nextIndex_last _ _ (by exact more)]
    rfl

/-- An operation of a run: there is one, and it goes on or ends the run. -/
theorem OnSchedule.pipeOp {v : List Sample} {r : Filtered} {s : State} (h : OnSchedule v r s) :
    ∃ t, Machine.pipeOp s = .ok t ∧ ((OnSchedule v r t ∧ opsLeft t.pipe + 1 = opsLeft s.pipe) ∨ ScheduleEnded v r t) := by
  obtain ⟨t, ht⟩ := h.progress.pipeOp_answers h.samples
  refine ⟨t, ht, ?_⟩
  have only := pipeOp_pipelineOnly ht
  obtain ⟨still, progress⟩ | published := h.progress.pipeOp h.samples h.processing ht
  · exact .inl ⟨⟨(finSamples_congr only.fin).trans h.samples, only.cfg ▸ h.filtered, still, progress,
      h.outputs_pipeOp ht still progress⟩, h.progress.opsLeft_pipeOp ht still⟩
  · exact .inr (h.ended ht published)

/-- Operations in a row. -/
theorem OnSchedule.pipeOps {v : List Sample} {r : Filtered} (n : Nat) {s : State} (h : OnSchedule v r s) :
    ∃ t, Machine.pipeOps n s = .ok t ∧ ((OnSchedule v r t ∧ opsLeft t.pipe + n = opsLeft s.pipe) ∨ ScheduleEnded v r t) := by
  induction n generalizing s with
  | zero => exact ⟨s, rfl, .inl ⟨h, rfl⟩⟩
  | succ n ih =>
    obtain ⟨u, hu, ⟨goes, count⟩ | ended⟩ := h.pipeOp
    · obtain ⟨t, ht, rest⟩ := ih goes
      refine ⟨t, by rw [Machine.pipeOps, if_pos h.processing, hu]; exact ht, ?_⟩
      exact rest.imp_left fun ⟨goes, left⟩ => ⟨goes, by omega⟩
    · have stops := pipeOps_rest n u (by rw [ended.published.state]; decide)
      exact ⟨u, by rw [Machine.pipeOps, if_pos h.processing, hu]; exact stops, .inr ended⟩

/-! ## What a run writes -/

/-- `t` is `s` but for the pipeline's storage, FOUT, and what CONS is in and offers. -/
def SequencerOnly (s t : State) : Prop :=
  t = { s with
    cons := { s.cons with
      fout := t.cons.fout, state := t.cons.state, emitIdx := t.cons.emitIdx, outData := t.cons.outData
      outValid := t.cons.outValid }
    pipe := t.pipe }

theorem SequencerOnly.trans {s t u : State} (h : SequencerOnly s t) (k : SequencerOnly t u) : SequencerOnly s u := by
  unfold SequencerOnly at h k
  rw [h] at k
  exact k

theorem nextIndex_sequencerOnly (s : State) (ph : PipePhase) (n : Nat) : SequencerOnly s (s.nextIndex ph n) := by
  unfold State.nextIndex
  split <;> rfl

theorem nextButterfly_sequencerOnly (s : State) : SequencerOnly s s.nextButterfly := by
  simp only [State.nextButterfly]
  split_ifs <;> rfl

theorem pipeOp_sequencerOnly {s t : State} (h : pipeOp s = .ok t) : SequencerOnly s t := by
  have stored (p : Pipeline) (f : Store Sample) :
      SequencerOnly s { s with pipe := p, cons := { s.cons with fout := f } } := rfl
  cases ph : s.pipe.phase with
  | widen =>
    obtain ⟨_, _, -, -, rfl⟩ := (pipeOp_widen s t ph).1 h
    exact (stored _ s.cons.fout).trans (nextIndex_sequencerOnly _ _ _)
  | bitrev =>
    obtain ⟨_, -, rfl⟩ := (pipeOp_bitrev s t ph).1 h
    exact stored _ s.cons.fout
  | stages =>
    obtain ⟨_, _, _, _, _, -, -, -, -, -, rfl⟩ := (pipeOp_stages s t ph).1 h
    exact (stored _ s.cons.fout).trans (nextButterfly_sequencerOnly _)
  | mask =>
    obtain rfl := (pipeOp_mask s t ph).1 h
    exact (stored _ s.cons.fout).trans (nextIndex_sequencerOnly _ _ _)
  | phases =>
    obtain ⟨_, -, rfl⟩ := (pipeOp_phases s t ph).1 h
    exact (stored _ s.cons.fout).trans (nextIndex_sequencerOnly _ _ _)
  | sums =>
    obtain ⟨_, _, _, _, -, -, -, -, rfl⟩ := (pipeOp_sums s t ph).1 h
    exact (stored _ s.cons.fout).trans (nextIndex_sequencerOnly _ _ _)
  | narrow =>
    obtain ⟨_, o, -, -, rfl⟩ := (pipeOp_narrow s t ph).1 h
    have turn := (stored s.pipe (writeCell s.cons.fout s.pipe.indexCtr o)).trans (nextIndex_sequencerOnly _ .widen 0)
    dsimp only
    split
    · exact turn
    · exact turn.trans rfl

theorem pipeOps_sequencerOnly {n : Nat} {s t : State} (h : pipeOps n s = .ok t) : SequencerOnly s t :=
  pipeOps_keeps (I := SequencerOnly s) (fun _ _ _ hv hu => hu.trans (pipeOp_sequencerOnly hv)) n h rfl

theorem ScheduleEnded.foutSamples {v : List Sample} {r : Filtered} {s : State} (h : ScheduleEnded v r s)
    (hr : filterFrame s.cfg.kMin s.cfg.kMax v = .ok r) : s.foutSamples = .ok r.out := by
  obtain ⟨r', hr', stored⟩ := h.published.filtered
  obtain rfl : r = r' := Except.ok.inj (hr.symm.trans hr')
  exact (readRun_eq_ok_iff_stored _ _).2 stored

/-- The 2305 operations of a frame (R95, R120). -/
theorem OnSchedule.whole {v : List Sample} {r : Filtered} {s : State} (h : OnSchedule v r s) (left : opsLeft s.pipe = 2305) :
    ∃ t, Machine.pipeOps 2305 s = .ok t ∧ ScheduleEnded v r t := by
  obtain ⟨t, ht, ⟨goes, count⟩ | ended⟩ := h.pipeOps 2305
  · have := goes.progress.opsLeft_pos
    omega
  · exact ⟨t, ht, ended⟩

theorem ScheduleEnded.eq_of_sequencerOnly {v : List Sample} {r : Filtered} {s t : State} (h : ScheduleEnded v r t)
    (only : SequencerOnly s t) : t = { s with
      cons := { s.cons with
        fout := t.cons.fout, emitIdx := 0#10, outData := 0xAA#8, outValid := true, state := codeEmitting }
      pipe := t.pipe } := by
  obtain ⟨state, emitIdx, outValid, outData, -⟩ := h.published
  unfold SequencerOnly at only
  rwa [state, emitIdx, outValid, outData] at only

end Sys2Proof.Machine
end

section
/-! PROCESSING at the cycle level (R120): its `clk_proc` edges run the sequencer's operations, a free number at a time, and take
nothing from SINK or from the registers of the crossing, which every edge moves. -/

namespace Sys2Proof.Machine

/-! ## The registers of the crossing beside PROCESSING -/

/-- `s` with the registers of the crossing in CONS's domain and the events to come replaced: what every `clk_proc` edge moves,
whatever else it does (R99). -/
def State.withHeadView (s : State) (g : Nat) (sync : List Nat) (l : List Event) : State :=
  { s with cons := { s.cons with tfGray := g, hfSync := sync }, inbox := l }

section

variable (g : Nat) (sync : List Nat) (l : List Event)

theorem nextIndex_withHeadView (s : State) (ph : PipePhase) (n : Nat) :
    (s.withHeadView g sync l).nextIndex ph n = (s.nextIndex ph n).withHeadView g sync l := by
  rw [State.nextIndex, State.nextIndex, apply_ite (State.withHeadView · g sync l)]
  rfl

theorem nextButterfly_withHeadView (s : State) :
    (s.withHeadView g sync l).nextButterfly = s.nextButterfly.withHeadView g sync l := by
  simp only [State.nextButterfly, apply_ite (State.withHeadView · g sync l)]
  rfl

/-- The sequencer reads and writes nothing of the crossing. -/
theorem pipeOp_withHeadView {s t : State} (h : pipeOp s = .ok t) :
    pipeOp (s.withHeadView g sync l) = .ok (t.withHeadView g sync l) := by
  cases ph : s.pipe.phase with
  | widen =>
    obtain ⟨q, z, hq, hz, rfl⟩ := (pipeOp_widen s t ph).1 h
    rw [← nextIndex_withHeadView]
    exact (pipeOp_widen (s.withHeadView g sync l) _ ph).2 ⟨q, z, hq, hz, rfl⟩
  | bitrev =>
    obtain ⟨x, hx, rfl⟩ := (pipeOp_bitrev s t ph).1 h
    exact (pipeOp_bitrev (s.withHeadView g sync l) _ ph).2 ⟨x, hx, rfl⟩
  | stages =>
    obtain ⟨wm, w, even, odd, r, hwm, hw, he, ho, hr, rfl⟩ := (pipeOp_stages s t ph).1 h
    rw [← nextButterfly_withHeadView]
    exact (pipeOp_stages (s.withHeadView g sync l) _ ph).2 ⟨wm, w, even, odd, r, hwm, hw, he, ho, hr, rfl⟩
  | mask =>
    obtain rfl := (pipeOp_mask s t ph).1 h
    rw [← nextIndex_withHeadView]
    exact (pipeOp_mask (s.withHeadView g sync l) _ ph).2 rfl
  | phases =>
    obtain ⟨c, hc, rfl⟩ := (pipeOp_phases s t ph).1 h
    rw [← nextIndex_withHeadView]
    exact (pipeOp_phases (s.withHeadView g sync l) _ ph).2 ⟨c, hc, rfl⟩
  | sums =>
    obtain ⟨cs, sn, x, v, hcs, hsn, hx, hv, rfl⟩ := (pipeOp_sums s t ph).1 h
    rw [← nextIndex_withHeadView]
    exact (pipeOp_sums (s.withHeadView g sync l) _ ph).2 ⟨cs, sn, x, v, hcs, hsn, hx, hv, rfl⟩
  | narrow =>
    obtain ⟨y, v, hy, hv, rfl⟩ := (pipeOp_narrow s t ph).1 h
    dsimp only
    rw [apply_ite (State.withHeadView · g sync l), ← nextIndex_withHeadView]
    exact (pipeOp_narrow (s.withHeadView g sync l) _ ph).2 ⟨y, v, hy, hv, ite_congr rfl (fun _ => rfl) fun _ =>
      congrArg State.processPublished (nextIndex_withHeadView g sync l
        { s with cons := { s.cons with fout := writeCell s.cons.fout s.pipe.indexCtr v } } .widen 0)⟩

theorem pipeOps_withHeadView {n : Nat} {s t : State} (h : pipeOps n s = .ok t) :
    pipeOps n (s.withHeadView g sync l) = .ok (t.withHeadView g sync l) := by
  induction n generalizing s with
  | zero => cases h; rfl
  | succ n ih =>
    simp only [pipeOps] at h ⊢
    split at h
    next hp =>
      obtain ⟨u, hu, rest⟩ := (bind_eq_ok _ _ _).1 h
      rw [if_pos (by exact hp), pipeOp_withHeadView g sync l hu]
      exact ih rest
    next hp => cases h; rw [if_neg (by exact hp)]

end

/-! ## Edges of PROCESSING -/

/-- An edge at which the sequencer runs (R120; the number of operations is free, log entry 14). -/
theorem consEdge_runs {s u : State} (r : Bool) (hp : s.cons.state = codeProcessing) (acts : s.pipe.stall = 0)
    (hu : pipeOps (Config.pipeRate s.freeIdx + 1) s.drawn = .ok u) : s.consEdge r = .ok u.stalled := by
  simp [State.consEdge, hp, acts, hu, codeProcessing, codeWaiting, codeUnused]

/-- `n` edges of PROCESSING lead from `s` to `t`, the registers of the crossing set aside. -/
inductive ProcessingEdges : Nat → State → State → Prop
  | none (s : State) : ProcessingEdges 0 s s
  | stalls {n : Nat} {s t : State} (hp : s.cons.state = codeProcessing) (waits : 0 < s.pipe.stall)
      (rest : ProcessingEdges n s.stallEdge t) : ProcessingEdges (n + 1) s t
  | runs {n : Nat} {s u t : State} (hp : s.cons.state = codeProcessing) (acts : s.pipe.stall = 0)
      (hu : pipeOps (Config.pipeRate s.freeIdx + 1) s.drawn = .ok u) (rest : ProcessingEdges n u.stalled t) :
      ProcessingEdges (n + 1) s t

/-- A step of the machine at a `clk_proc` edge out of reset: CONS's edge, and R99's assignments beside it. -/
theorem step_withHeadView {s u : State} {r : Bool} {g : Nat} {sync : List Nat} {l : List Event} (hl : s.cfg.legal = true)
    (out : s.consOutOfReset = true) (h : (s.withHeadView g sync l).consEdge r = .ok (u.withHeadView g sync l)) :
    step (s.withHeadView g sync (.clkProc r :: l)) =
      .next (u.withHeadView (grayOf s.cons.tf) (shiftIn s.prod.hfGray sync) l) :=
  step_clkProc (s := s.withHeadView g sync (.clkProc r :: l)) hl rfl out h

/-- The machine follows the edges, whatever SINK drives meanwhile. -/
theorem ProcessingEdges.run {n : Nat} {s t : State} (h : ProcessingEdges n s t) (hl : s.cfg.legal = true)
    (out : s.consOutOfReset = true) (evs rest : List Event) (len : evs.length = n) (clk : allClkProc evs) (g : Nat)
    (sync : List Nat) : ∃ g' sync', Sys2Proof.core.run n (s.withHeadView g sync (evs ++ rest)) =
      .next (t.withHeadView g' sync' rest) := by
  induction h generalizing evs g sync with
  | none s =>
    obtain rfl := List.eq_nil_of_length_eq_zero len
    exact ⟨g, sync, rfl⟩
  | @stalls n s t hp waits edges ih =>
    obtain ⟨ev, evs, rfl⟩ := List.exists_cons_of_length_eq_add_one len
    obtain ⟨⟨r, rfl⟩, later⟩ := List.forall_mem_cons.1 clk
    have edge := consEdge_stalls (s.withHeadView g sync (evs ++ rest)) r (.inr hp) waits
    rw [List.cons_append, Nat.add_comm, run_add n (run_one (step_withHeadView (u := s.stallEdge) hl out edge))]
    exact ih hl out evs (Nat.succ.inj len) later _ _
  | @runs n s u t hp acts hu edges ih =>
    obtain ⟨ev, evs, rfl⟩ := List.exists_cons_of_length_eq_add_one len
    obtain ⟨⟨r, rfl⟩, later⟩ := List.forall_mem_cons.1 clk
    have only := pipeOps_pipelineOnly hu
    have edge := consEdge_runs (s := s.withHeadView g sync (evs ++ rest)) r hp acts
      (pipeOps_withHeadView g sync (evs ++ rest) hu)
    rw [List.cons_append, Nat.add_comm, run_add n (run_one (step_withHeadView (u := u.stalled) hl out edge))]
    refine ih (only.cfg ▸ hl) ?_ evs (Nat.succ.inj len) later _ _
    rw [State.consOutOfReset, State.stalled_rst, only.rst]
    exact out

/-! ## The edges of a run -/

/-- The stall counter and the counter of free values decide when the sequencer acts, not what it computes. -/
theorem OnSchedule.timed {v : List Sample} {r : Filtered} {s : State} (h : OnSchedule v r s) (k n : Nat) :
    OnSchedule v r { s with pipe := { s.pipe with stall := k }, freeIdx := n } :=
  ⟨h.samples, h.filtered, h.processing, h.progress.congr ⟨rfl, rfl, rfl, rfl, rfl⟩, h.outputs⟩

theorem ScheduleEnded.timed {v : List Sample} {r : Filtered} {s : State} (h : ScheduleEnded v r s) (k n : Nat) :
    ScheduleEnded v r { s with pipe := { s.pipe with stall := k }, freeIdx := n } := by
  obtain ⟨⟨state, emitIdx, outValid, outData, filtered⟩, outputs, counters⟩ := h
  refine ⟨⟨state, emitIdx, outValid, outData, filtered⟩, outputs, ?_⟩
  dsimp only
  rw [counters]

/-- `t` is `s` but for what the sequencer writes and the counter of free values. -/
def EdgesOnly (s t : State) : Prop := SequencerOnly { s with freeIdx := t.freeIdx } t

theorem EdgesOnly.trans {s t u : State} (h : EdgesOnly s t) (k : EdgesOnly t u) : EdgesOnly s u := by
  unfold EdgesOnly SequencerOnly at h k
  rw [h] at k
  exact k

theorem edgesOnly_of_pipeOps {n : Nat} {s u : State} (h : pipeOps n s.drawn = .ok u) : EdgesOnly s u.stalled := by
  have only := pipeOps_sequencerOnly h
  unfold SequencerOnly at only
  rw [only]
  rfl

/-- The edges of PROCESSING come to its end: each runs down the stall counter or the schedule (R120, I8). -/
theorem OnSchedule.edges {v : List Sample} {r : Filtered} {s : State} (h : OnSchedule v r s) :
    ∃ n t, ProcessingEdges n s t ∧ ScheduleEnded v r t ∧ EdgesOnly s t := by
  generalize left : opsLeft s.pipe = k
  induction k using Nat.strong_induction_on generalizing s with
  | _ k shorter =>
    generalize wait : s.pipe.stall = j
    induction j generalizing s with
    | zero =>
      obtain ⟨u, hu, ⟨goes, count⟩ | ended⟩ := OnSchedule.pipeOps (s := s.drawn) (Config.pipeRate s.freeIdx + 1)
        (h.timed s.pipe.stall (s.freeIdx + 1))
      · have less : opsLeft u.stalled.pipe < k := by
          have same : opsLeft s.drawn.pipe = k := left
          have same' : opsLeft u.stalled.pipe = opsLeft u.pipe := rfl
          omega
        obtain ⟨n, t, run, ended, only⟩ := shorter _ less (goes.timed _ _) rfl
        exact ⟨n + 1, t, .runs h.processing wait hu run, ended, (edgesOnly_of_pipeOps hu).trans only⟩
      · exact ⟨1, u.stalled, .runs h.processing wait hu (.none _), ended.timed _ _, edgesOnly_of_pipeOps hu⟩
    | succ j ih =>
      obtain ⟨n, t, run, ended, only⟩ := ih (s := s.stallEdge) (h.timed _ s.freeIdx) left (by simp [wait])
      exact ⟨n + 1, t, .stalls h.processing (by omega) run, ended, EdgesOnly.trans (t := s.stallEdge) rfl only⟩

/-! ## The statement -/

/-- A store that holds a list and the store filled with it have the same elements. -/
theorem Stored.same_cells {α : Type} {st : Store α} {l : List α} (h : Stored st l) {i : Nat} (hi : i < 256) :
    readCell st i = readCell (fullStore l) i := (h.2 i hi).trans (readCell_fullStore l i).symm

/-- The end of the edges is that of PROCESS (R117) but for its buffers as stores and the counters of the schedule. -/
theorem ScheduleEnded.eq_processed {v : List Sample} {r : Filtered} {s t : State} (h : ScheduleEnded v r t)
    (only : EdgesOnly s t) (start : s.pipe = { s.pipe with phase := .widen, stageCtr := 0, blockCtr := 0, indexCtr := 0 }) :
    t = { s.processed r with
      cons := { (s.processed r).cons with fout := t.cons.fout }
      pipe := { (s.processed r).pipe with
        x := t.pipe.x, cosp := t.pipe.cosp, sinp := t.pipe.sinp, y := t.pipe.y, stall := t.pipe.stall }
      freeIdx := t.freeIdx } := by
  have final := h.eq_of_sequencerOnly only
  rw [State.processed_pipe, start]
  rw [h.counters] at final
  exact final

/-- The buffers at the end of a run have the elements that PROCESS fills them with. -/
theorem ScheduleEnded.same_elements {v : List Sample} {r : Filtered} {s t : State} (h : ScheduleEnded v r t)
    (hr : filterFrame t.cfg.kMin t.cfg.kMax v = .ok r) {i : Nat} (hi : i < 256) :
    readCell t.cons.fout i = readCell (s.processed r).cons.fout i ∧
      readCell t.pipe.x i = readCell (s.processed r).pipe.x i ∧
      readCell t.pipe.cosp i = readCell (s.processed r).pipe.cosp i ∧
      readCell t.pipe.sinp i = readCell (s.processed r).pipe.sinp i ∧
      readCell t.pipe.y i = readCell (s.processed r).pipe.y i := by
  obtain ⟨hx, hc, hs, hy⟩ := h.outputs
  have hout := (readRun_eq_ok_iff_stored _ _).1 (h.foutSamples hr)
  exact ⟨hout.same_cells hi, hx.same_cells hi, hc.same_cells hi, hs.same_cells hi, hy.same_cells hi⟩

theorem counters_at_start {p : Pipeline} (phase : p.phase = .widen) (stage : p.stageCtr = 0) (block : p.blockCtr = 0)
    (index : p.indexCtr = 0) : p = { p with phase := .widen, stageCtr := 0, blockCtr := 0, indexCtr := 0 } := by
  cases p
  subst phase stage block index
  rfl

/-- Settles O60: the schedule has 2305 operations, and the edges of PROCESSING run it to its end, beside the crossing. -/
theorem sequencerComputesTheFilteredFrame : Obligations.SequencerComputesTheFilteredFrame := by
  constructor
  · intro s v hp phase _ _ index hv
    obtain ⟨r, run, left⟩ := OnSchedule.start hv hp phase index
    obtain ⟨t, ht, ended⟩ := run.whole left
    have only := pipeOps_sequencerOnly ht
    have cfg := (pipeOps_pipelineOnly ht).cfg
    exact ⟨r, t, run.filtered, ht, ended.foutSamples (cfg ▸ run.filtered), ended.eq_of_sequencerOnly only⟩
  · intro s v f hl out hp phase stage block index hv
    obtain ⟨r, run, -⟩ := OnSchedule.start hv hp phase index
    obtain ⟨n, t, edges, ended, only⟩ := run.edges
    have final := ended.eq_processed only (counters_at_start phase stage block index)
    have filtered : filterFrame t.cfg.kMin t.cfg.kMax v = .ok r := by rw [only]; exact run.filtered
    refine ⟨n, fun evs rest len clk => ?_⟩
    obtain ⟨g, sync, steps⟩ := edges.run hl out evs rest len clk s.cons.tfGray s.cons.hfSync
    refine ⟨_, s.processed r, steps, (execProcess_eq_next f s _).2 ⟨out, hp, v, r, hv, run.filtered, rfl⟩,
      fun i hi => ended.same_elements filtered hi, ?_⟩
    rw [final]
    rfl

end Sys2Proof.Machine
end

section
/-! The cosine and the sine of R65 and R66 are at most 1.0 in magnitude on every finite angle. The interpolation adds to a word of the
table a part of the step to the next word, and neither end of that step passes 1.0. -/

namespace Sys2Proof.Machine

theorem atMost_iff_unitsWithin {n : Nat} {a : F32} : atMost n a ↔ UnitsWithin 1 (149 + n) a := by
  rw [atMost, UnitsWithin, Nat.one_mul]

/-! ## Line 6: the fraction -/

theorem fvalue_nonneg_of_fadd {a b w : F32} (h : fadd a b = .ok w) (nonneg : 0 ≤ fvalue a + fvalue b) : 0 ≤ fvalue w := by
  obtain ⟨-, -, -, zero, rounds⟩ := fadd_ok a b w h
  have abs := fvalue_natAbs w
  by_cases h0 : fvalue a + fvalue b = 0
  · have := zero h0
    omega
  · obtain ⟨-, sign, -⟩ := roundUnits_ok _ _ _ _ (rounds h0)
    rw [fvalue, sign, if_neg (by simpa using nonneg)]
    exact Int.natCast_nonneg _

/-- What is left of an index above its floor lies between 0 and 1. -/
theorem fsub_floor_fraction {x k f : F32} (fx : finite x = true) (hk : f32OfInt (floorInt x) = .ok k) (hf : fsub x k = .ok f) :
    UnitsWithin 1 149 f ∧ 0 ≤ fvalue f := by
  obtain ⟨k', hk', fk, vk⟩ := f32OfInt_floorInt fx
  obtain rfl : k = k' := Except.ok.inj (hk.symm.trans hk')
  have exact : fvalue x + fvalue (fneg k) = fvalue x + -(floorInt x * 2 ^ 149) := by rw [fvalue_fneg, vk]
  obtain ⟨f', hf', bf⟩ := fadd_of_natAbs_le fx (by simpa using fk) (exact ▸ sub_floorInt x) (by decide) (by decide)
  obtain rfl : f = f' := Except.ok.inj (hf.symm.trans hf')
  exact ⟨bf, fvalue_nonneg_of_fadd hf (by rw [exact, floorInt]; omega)⟩

/-! ## Line 9: the part of the step -/

/-- A factor of at most 1 does not enlarge the other: that is a word, and rounding does not pass it. -/
theorem funits_fmul_le {f d g : F32} (hf : UnitsWithin 1 149 f) (hg : fmul f d = .ok g) : funits g ≤ funits d := by
  obtain ⟨-, -, rounds⟩ := fmul_ok f d g hg
  obtain ⟨c, n, hc, form⟩ := funits_form d
  have product : funits f * funits d ≤ c * 2 ^ (n + 149) :=
    calc funits f * funits d ≤ (1 * 2 ^ 149) * (c * 2 ^ n) := Nat.mul_le_mul hf.2 form.le
      _ = c * 2 ^ (n + 149) := by rw [pow_add]; ring
  exact form ▸ roundUnits_le_multiple rounds hc product

/-- A fraction of a step lies between 0 and the step. -/
theorem fvalue_fmul_between {f d g : F32} (hf : UnitsWithin 1 149 f) (nonneg : 0 ≤ fvalue f) (hg : fmul f d = .ok g) :
    min 0 (fvalue d) ≤ fvalue g ∧ fvalue g ≤ max 0 (fvalue d) := by
  have le := funits_fmul_le hf hg
  obtain ⟨-, -, rounds⟩ := fmul_ok f d g hg
  cases sf : fsign f with
  | false =>
    obtain ⟨-, sign, -⟩ := roundUnits_ok _ _ _ _ rounds
    rw [sf, Bool.false_bne] at sign
    unfold fvalue
    rw [sign]
    split <;> omega
  | true =>
    have zero : funits f = 0 := by
      rw [fvalue, if_pos sf] at nonneg
      omega
    have := roundUnits_le_multiple (c := 0) (n := 0) rounds (by decide) (by simp [zero])
    have abs := fvalue_natAbs g
    omega

/-! ## The ends of a step -/

/-- Whether the step from one word to another, as line 9 rounds it, ends within 1.0 of zero. -/
def stepTest (w : F32 × F32) : Bool :=
  match fsub w.2 w.1 with
  | .ok df => decide ((fvalue w.1 + fvalue df).natAbs ≤ 2 ^ 149)
  | .error _ => false

/-- The words of the table, each with its successor; the last is followed by the first (line 7). -/
theorem stepTest_table : (romImage.zip (romImage.rotate 1)).all stepTest = true := by decide +kernel

theorem step_end_le {i : Nat} {t0 t1 df : F32} (ht0 : romImage[i]? = some t0) (ht1 : romImage[(i + 1) % 360]? = some t1)
    (hdf : fsub t1 t0 = .ok df) : (fvalue t0 + fvalue df).natAbs ≤ 2 ^ 149 := by
  obtain ⟨len, -⟩ := romImage_within
  obtain ⟨hi, -⟩ := List.getElem?_eq_some_iff.1 ht0
  have next : (romImage.rotate 1)[i]? = some t1 := by rw [List.getElem?_rotate hi, len, ht1]
  have pair := List.mem_of_getElem? (List.getElem?_zip_eq_some (z := (t0, t1)).2 ⟨ht0, next⟩)
  simpa [stepTest, hdf] using List.all_eq_true.1 stepTest_table _ pair

theorem interpolated_atMost {x v : F32} (fx : finite x = true) (hv : interpolated x = .ok v) : atMost 0 v := by
  obtain ⟨k, f, t0, t1, df, g, hk, hf, ht0, ht1, hdf, hg, hv⟩ := interpolated_eq_ok.1 hv
  obtain ⟨bf, nonneg⟩ := fsub_floor_fraction fx hk hf
  obtain ⟨-, words⟩ := romImage_within
  have start := words t0 (List.mem_of_getElem? ht0)
  have le_one := start.natAbs
  have finish_le := step_end_le ht0 ((nextIndex_eq _).symm ▸ ht1) hdf
  obtain ⟨low, high⟩ := fvalue_fmul_between bf nonneg hg
  obtain ⟨-, fg, -⟩ := fadd_ok t0 g v hv
  obtain ⟨v', hv', bv⟩ := fadd_of_natAbs_le (c := 1) (n := 149) start.1 fg (by omega) (by decide) (by decide)
  obtain rfl : v = v' := Except.ok.inj (hv.symm.trans hv')
  exact atMost_iff_unitsWithin.2 bv

/-! ## Cosine and sine -/

theorem cosine_atMost {t v : F32} (hv : cosine t = .ok v) : atMost 0 v := by
  cases ht : finite t with
  | false => rw [cosine_nonfinite ht] at hv; cases hv
  | true =>
    obtain ⟨x, hx, fx⟩ := tableIndex_answers ht
    rw [cosine_finite ht, hx, ok_bind] at hv
    exact interpolated_atMost fx hv

theorem sine_atMost {t v : F32} (hv : sine t = .ok v) : atMost 0 v := by
  cases ht : finite t with
  | false => rw [sine_nonfinite ht] at hv; cases hv
  | true =>
    rw [sine, if_pos ht] at hv
    split at hv
    · simp only [bind_eq_ok, pure_eq_ok] at hv
      obtain ⟨a, -, w, hw, rfl⟩ := hv
      exact atMost_fneg (cosine_atMost hw)
    · obtain ⟨a, -, hw⟩ := (bind_eq_ok _ _ _).1 hv
      exact cosine_atMost hw

end Sys2Proof.Machine
end

section
/-! `streaming_ifft` (R79 to R82): the phase tables hold values of at most 1.0, so the two products of a term of the sum are at most as
large as the bin, and 256 terms of a spectrum of bins up to 2^28 stay in the finite range. -/

namespace Sys2Proof.Machine

/-! ## IFFT_TW -/

theorem phasePair_eq_ok {p : Nat} {z : Cplx} : phasePair p = .ok z ↔ ∃ k m φ,
    f32OfInt p = .ok k ∧ fmul twoPi k = .ok m ∧ fdiv m f256 = .ok φ ∧ cosine φ = .ok z.re ∧ sine φ = .ok z.im := by
  simp only [phasePair, phaseAngle, bind_eq_ok, pure_eq_ok]
  constructor
  · rintro ⟨φ, ⟨k, hk, m, hm, hφ⟩, c, hc, sn, hs, rfl⟩
    exact ⟨k, m, φ, hk, hm, hφ, hc, hs⟩
  · rintro ⟨k, m, φ, hk, hm, hφ, hc, hs⟩
    exact ⟨φ, ⟨k, hk, m, hm, hφ⟩, z.re, hc, z.im, hs, rfl⟩

theorem phasePair_bothAtMost {p : Nat} {z : Cplx} (h : phasePair p = .ok z) : bothAtMost 0 z := by
  obtain ⟨k, m, φ, -, -, -, hc, hs⟩ := phasePair_eq_ok.1 h
  exact ⟨cosine_atMost hc, sine_atMost hs⟩

theorem exec_ifftTw_of_answers {p : BitVec 8} {s : State} {c : Cplx} (hc : phasePair p.toNat = .ok c) :
    exec (.ifftTw p) s = .next ((s.withWork { s.work with
      cosp := writeCell s.work.cosp p.toNat c.re, sinp := writeCell s.work.sinp p.toNat c.im }).returning (.complex c)) := by
  simp only [exec, execIfftTw, finish_eq_next, bind_eq_ok, pure_eq_ok]
  exact ⟨c, hc, rfl⟩

/-- Settles O19: the pair answers, with both values bounded, and the row writes one cell of each table. -/
theorem phasePairIsWrittenAndBounded : Obligations.PhasePairIsWrittenAndBounded := by
  intro p s
  obtain ⟨z, hz, -⟩ := phasePair_within p.isLt
  obtain ⟨k, m, φ, hk, hm, hφ, hc, hs⟩ := phasePair_eq_ok.1 hz
  refine ⟨k, m, φ, z.re, z.im, _, hk, hm, hφ, hc, hs, hz, cosine_atMost hc, sine_atMost hs, exec_ifftTw_of_answers hz,
    readCell_writeCell_same _ _ _, readCell_writeCell_same _ _ _, fun i hi => ?_, fun i hi => ?_, rfl⟩
  · exact readCell_writeCell_other _ _ (Ne.symm hi)
  · exact readCell_writeCell_other _ _ (Ne.symm hi)

/-! ## The phase table -/

/-- The table holds the 256 pairs of R79, all of at most 1.0. -/
theorem phaseTable_entries : ∃ table, phaseTable = .ok table ∧ table.length = 256 ∧ (∀ z ∈ table, bothAtMost 0 z) ∧
    ∀ p, p < 256 → ∃ c, phasePair p = .ok c ∧ table[p]? = some c := by
  obtain ⟨table, ht, len, unit⟩ := mapChecked_answers (f := phasePair) (P := bothAtMost 0) (l := List.range 256) fun p hp => by
    obtain ⟨z, hz, -⟩ := phasePair_within (List.mem_range.1 hp)
    exact ⟨z, hz, phasePair_bothAtMost hz⟩
  exact ⟨table, ht, len.trans List.length_range, unit, fun p hp => mapChecked_getElem? ht (List.getElem?_range hp)⟩

/-! ## The sum -/

/-- One turn of R80 at bin `k` with value `z`. -/
def IsSumTurn (table : List Cplx) (n k : Nat) (z : Cplx) (acc acc' : F32) : Prop :=
  ∃ c a b d, table[(k * n) % 256]? = some c ∧ fmul z.re c.re = .ok a ∧ fmul z.im c.im = .ok b ∧ fsub a b = .ok d ∧
    fadd acc d = .ok acc'

/-- The loop over one more bin takes a turn and goes on. -/
theorem sumLoop_cons_eq_ok {table : List Cplx} {n k : Nat} {z : Cplx} {rest : List Cplx} {acc w : F32} :
    sumLoop table n k (z :: rest) acc = .ok w ↔
      ∃ acc', IsSumTurn table n k z acc acc' ∧ sumLoop table n (k + 1) rest acc' = .ok w := by
  simp only [sumLoop, sumTerm, IsSumTurn, bind_eq_ok, elemOf_eq_ok]
  constructor
  · rintro ⟨c, hc, acc', ⟨a, ha, b, hb, d, hd, hacc⟩, hw⟩
    exact ⟨acc', ⟨c, a, b, d, hc, ha, hb, hd, hacc⟩, hw⟩
  · rintro ⟨acc', ⟨c, a, b, d, hc, ha, hb, hd, hacc⟩, hw⟩
    exact ⟨c, hc, acc', ⟨a, ha, b, hb, d, hd, hacc⟩, hw⟩

/-- A loop that answers has taken its turns in order. -/
theorem sumLoop_turns {table : List Cplx} {n k : Nat} {x : List Cplx} {start w : F32} (h : sumLoop table n k x start = .ok w) :
    ∃ acc : Nat → F32, acc k = start ∧ acc (k + x.length) = w ∧
      ∀ i z, x[i]? = some z → IsSumTurn table n (k + i) z (acc (k + i)) (acc (k + i + 1)) := by
  induction x generalizing k start with
  | nil => cases h; exact ⟨fun _ => w, rfl, rfl, by simp⟩
  | cons z rest ih =>
    obtain ⟨next, turn, hrest⟩ := sumLoop_cons_eq_ok.1 h
    obtain ⟨acc, first, last, turns⟩ := ih hrest
    have later {j : Nat} (hj : k < j) : Function.update acc k start j = acc j := Function.update_of_ne hj.ne' _ _
    refine ⟨Function.update acc k start, Function.update_self .., ?_, fun i y hy => ?_⟩
    · rw [later (by simp), List.length_cons, Nat.add_comm rest.length, ← Nat.add_assoc, last]
    · cases i with
      | zero =>
        obtain rfl : z = y := by simpa using hy
        rw [Nat.add_zero, Function.update_self, later (Nat.lt_succ_self k), first]
        exact turn
      | succ i =>
        rw [later (by omega), later (by omega), show k + (i + 1) = k + 1 + i by omega]
        exact turns i y (by simpa using hy)

theorem ifftSum_eq_ok {table x : List Cplx} {n : Nat} {v : F32} :
    ifftSum table x n = .ok v ↔ ∃ w, sumLoop table n 0 x fzero = .ok w ∧ fdiv w f256 = .ok v := bind_eq_ok _ _ _

/-- What R80 says of a sum that answers. -/
theorem isInverseSum_of_ifftSum {table x : List Cplx} {n : Nat} {v : F32} (len : x.length = 256)
    (h : ifftSum table x n = .ok v) : isInverseSum table x n v := by
  obtain ⟨w, hw, hv⟩ := ifftSum_eq_ok.1 h
  obtain ⟨acc, first, last, turns⟩ := sumLoop_turns hw
  rw [Nat.zero_add, len] at last
  refine ⟨acc, first, fun k hk => ?_, last.symm ▸ hv⟩
  obtain ⟨z, hz, -⟩ := getElem?_mem_of_lt (l := x) (len.symm ▸ hk)
  obtain ⟨c, a, b, d, hc, turn⟩ := turns k z hz
  rw [Nat.zero_add] at hc turn
  exact ⟨c, z, a, b, d, hc, hz, turn⟩

/-! ## The range of the sum -/

/-- A turn adds at most two products of at most 2^28, in units of 2^28. -/
theorem isSumTurn_within {table : List Cplx} (len : table.length = 256) (unit : ∀ c ∈ table, bothAtMost 0 c) (n : Nat) {k : Nat}
    (hk : k < 256) {z : Cplx} (hz : bothAtMost 28 z) {acc : F32} (ha : UnitsWithin (k * 2) 177 acc) :
    ∃ acc', IsSumTurn table n k z acc acc' ∧ UnitsWithin ((k + 1) * 2) 177 acc' := by
  obtain ⟨zre, zim⟩ := hz
  obtain ⟨c, hc, mem⟩ := getElem?_mem_of_lt (l := table) (i := k * n % 256) (len.symm ▸ Nat.mod_lt _ (by decide))
  obtain ⟨cre, cim⟩ := unit c mem
  obtain ⟨a, ha', ba⟩ := fmul_within (atMost_iff_unitsWithin.1 zre) (atMost_iff_unitsWithin.1 cre) (by decide) (by decide)
  obtain ⟨b, hb', bb⟩ := fmul_within (atMost_iff_unitsWithin.1 zim) (atMost_iff_unitsWithin.1 cim) (by decide) (by decide)
  obtain ⟨d, hd, bd⟩ := fsub_within ba bb (by decide) (by decide)
  obtain ⟨acc', hacc, bacc⟩ := fadd_within ha bd (by omega) (by decide)
  exact ⟨acc', ⟨c, a, b, d, hc, ha', hb', hd, hacc⟩, by rwa [Nat.succ_mul]⟩

theorem sumLoop_of_binsAtMost {table : List Cplx} (len : table.length = 256) (unit : ∀ c ∈ table, bothAtMost 0 c) (n : Nat)
    {k : Nat} {x : List Cplx} (hk : k + x.length = 256) (hx : binsAtMost 28 x) {acc : F32} (ha : UnitsWithin (k * 2) 177 acc) :
    ∃ w, sumLoop table n k x acc = .ok w ∧ UnitsWithin (256 * 2) 177 w := by
  induction x generalizing k acc with
  | nil => exact ⟨acc, rfl, hk ▸ ha⟩
  | cons z rest ih =>
    rw [List.length_cons] at hk
    obtain ⟨hz, hrest⟩ := List.forall_mem_cons.1 hx
    obtain ⟨acc', turn, bacc⟩ := isSumTurn_within len unit n (by omega) hz ha
    obtain ⟨w, hw, bw⟩ := ih (k := k + 1) (by omega) hrest bacc
    exact ⟨w, sumLoop_cons_eq_ok.2 ⟨acc', turn, hw⟩, bw⟩

/-- Every output of such a spectrum (R82). -/
theorem ifftSum_of_binsAtMost {table x : List Cplx} (len : table.length = 256) (unit : ∀ c ∈ table, bothAtMost 0 c)
    (lenx : x.length = 256) (hx : binsAtMost 28 x) (n : Nat) :
    ∃ v, ifftSum table x n = .ok v ∧ isInverseSum table x n v ∧ atMost 30 v := by
  obtain ⟨w, hw, bw⟩ := sumLoop_of_binsAtMost len unit n (k := 0) ((Nat.zero_add _).trans lenx) hx (fzero_within _ _)
  obtain ⟨v, hv, bv⟩ := fdiv_within (n := 169) bw f256_le.1 f256_le.2 (by decide) (by decide)
  have answers := ifftSum_eq_ok.2 ⟨w, hw, hv⟩
  exact ⟨v, answers, isInverseSum_of_ifftSum lenx answers, atMost_iff_unitsWithin.2 (bv.mono (by decide))⟩

/-! ## IFFT_SUM -/

theorem exec_ifftSum_of_answers {n : BitVec 8} {s : State} {x table : List Cplx} {v : F32} (hx : s.work.spectrum = .ok x)
    (ht : phaseTable = .ok table) (hv : ifftSum table x n.toNat = .ok v) : exec (.ifftSum n) s =
      .next ((s.withWork { s.work with y := writeCell s.work.y n.toNat v }).returning (.word v)) := by
  simp only [exec, execIfftSum, finish_eq_next, bind_eq_ok, pure_eq_ok]
  exact ⟨x, hx, table, ht, v, hv, rfl⟩

/-- Settles O20: the sum answers within its range, and the row writes it to one cell of y. -/
theorem inverseSumWritesOneOutput : Obligations.InverseSumWritesOneOutput := by
  intro n s x hx bins
  obtain ⟨lenx, -⟩ := (spectrum_eq_ok _ _).1 hx
  obtain ⟨table, ht, len, unit, entries⟩ := phaseTable_entries
  obtain ⟨v, hv, sum, bv⟩ := ifftSum_of_binsAtMost len unit lenx bins n.toNat
  exact ⟨table, v, _, ht, entries, hv, sum, bv, exec_ifftSum_of_answers hx ht hv, readCell_writeCell_same _ _ _,
    fun i hi => readCell_writeCell_other _ _ (Ne.symm hi), rfl⟩

/-! ## IFFT -/

theorem exec_ifft_of_answers {n : BitVec 8} {s : State} {x table : List Cplx} {y : List F32} {w : F32}
    (hx : s.work.spectrum = .ok x) (ht : phaseTable = .ok table) (hy : ifftFrame table x = .ok y) (hw : y[n.toNat]? = some w) :
    exec (.ifft n) s = .next ((s.withWork ((s.work.withPhaseTable table).withOutputs y)).returning (.word w)) := by
  simp only [exec, execIfft, finish_eq_next, bind_eq_ok, pure_eq_ok]
  exact ⟨x, hx, table, ht, y, hy, w, (elemOf_eq_ok _ _ _).2 hw, rfl⟩

/-- The outputs of a frame are its sums, index by index (R81). -/
theorem ifftFrame_outputs {table x : List Cplx} {y : List F32} (h : ifftFrame table x = .ok y) {m : Nat} (hm : m < 256) :
    ∃ v, ifftSum table x m = .ok v ∧ y[m]? = some v := mapChecked_getElem? h (List.getElem?_range hm)

theorem ifftFrame_of_binsAtMost {table x : List Cplx} (len : table.length = 256) (unit : ∀ c ∈ table, bothAtMost 0 c)
    (lenx : x.length = 256) (hx : binsAtMost 28 x) : ∃ y, ifftFrame table x = .ok y := by
  obtain ⟨y, hy, -⟩ := mapChecked_answers (f := ifftSum table x) (P := atMost 30) (l := List.range 256) fun n _ => by
    obtain ⟨v, hv, -, bv⟩ := ifftSum_of_binsAtMost len unit lenx hx n
    exact ⟨v, hv, bv⟩
  exact ⟨y, hy⟩

/-- Settles O21: the 256 sums answer, and the row fills both tables and y. -/
theorem inverseTransformComputesEveryOutput : Obligations.InverseTransformComputesEveryOutput := by
  intro n s x hx bins
  obtain ⟨lenx, -⟩ := (spectrum_eq_ok _ _).1 hx
  obtain ⟨table, ht, len, unit, entries⟩ := phaseTable_entries
  obtain ⟨y, hy⟩ := ifftFrame_of_binsAtMost len unit lenx bins
  obtain ⟨w, -, hw⟩ := ifftFrame_outputs hy n.isLt
  refine ⟨table, _, w, ht, exec_ifft_of_answers hx ht hy hw, fun m hm => ?_, fun m hm => ?_,
    (readCell_fullStore y _).trans hw, rfl⟩
  · obtain ⟨v, hv, at_m⟩ := ifftFrame_outputs hy hm
    exact ⟨v, hv, isInverseSum_of_ifftSum lenx hv, (readCell_fullStore y m).trans at_m⟩
  · obtain ⟨c, hc, at_m⟩ := entries m hm
    exact ⟨c, hc, at_m, (readCell_fullStore _ m).trans (by simp [at_m]), (readCell_fullStore _ m).trans (by simp [at_m])⟩

end Sys2Proof.Machine
end

section
/-! MASK (R86, R87): the bins outside the pass band become +0.0, the others stay, and a second application finds nothing to do. -/

namespace Sys2Proof.Machine

/-! ## The row -/

/-- MASK answers exactly where it reads a whole spectrum, and then it writes X and no other array. -/
theorem exec_mask_eq_next {i : BitVec 8} {s t : State} : exec (.mask i) s = .next t ↔ ∃ x v, s.work.spectrum = .ok x ∧
    (maskSpectrum s.cfg.kMin s.cfg.kMax x)[i.toNat]? = some v ∧
      (s.withWork (s.work.withSpectrum (maskSpectrum s.cfg.kMin s.cfg.kMax x))).returning (.complex v) = t := by
  simp only [exec, execMask, finish_eq_next, bind_eq_ok, pure_eq_ok, elemOf_eq_ok]
  exact ⟨fun ⟨x, hx, v, hv, ht⟩ => ⟨x, v, hx, hv, ht⟩, fun ⟨x, v, hx, hv, ht⟩ => ⟨x, hx, v, hv, ht⟩⟩

/-- Every index of the row has its bin. -/
theorem maskSpectrum_answers (kMin kMax : Nat) {x : List Cplx} (len : x.length = 256) (i : BitVec 8) :
    ∃ v, (maskSpectrum kMin kMax x)[i.toNat]? = some v := by
  obtain ⟨v, hv, -⟩ := getElem?_mem_of_lt (l := maskSpectrum kMin kMax x) (i := i.toNat)
    (by rw [maskSpectrum_length, len]; exact i.isLt)
  exact ⟨v, hv⟩

/-! ## The bins -/

theorem masked_iff {kMin kMax k : Nat} : masked kMin kMax k = true ↔ k < kMin ∨ kMax < k := by simp [masked]

theorem maskSpectrum_outside {kMin kMax k : Nat} {x : List Cplx} (hk : k < x.length) (out : k < kMin ∨ kMax < k) :
    (maskSpectrum kMin kMax x)[k]? = some czero := by
  rw [maskSpectrum_getElem?, List.getElem?_eq_getElem hk, Option.map_some, if_pos (masked_iff.2 out)]

theorem maskSpectrum_inside {kMin kMax k : Nat} (x : List Cplx) (low : kMin ≤ k) (high : k ≤ kMax) :
    (maskSpectrum kMin kMax x)[k]? = x[k]? := by
  have kept : ¬ masked kMin kMax k = true := fun h => by have := masked_iff.1 h; omega
  simp only [maskSpectrum_getElem?, if_neg kept, Option.map_id']

/-- R87 on the list: a masked bin is masked to itself, and any other is left alone twice. -/
theorem maskSpectrum_maskSpectrum (kMin kMax : Nat) (x : List Cplx) :
    maskSpectrum kMin kMax (maskSpectrum kMin kMax x) = maskSpectrum kMin kMax x := by
  refine List.ext_getElem? fun k => ?_
  rcases Nat.lt_or_ge k x.length with inside | beyond
  · by_cases out : k < kMin ∨ kMax < k
    · rw [maskSpectrum_outside inside out, maskSpectrum_outside (by rwa [maskSpectrum_length]) out]
    · exact maskSpectrum_inside _ (by omega) (by omega)
  · rw [List.getElem?_eq_none (by simpa only [maskSpectrum_length]), List.getElem?_eq_none (by simpa only [maskSpectrum_length])]

/-! ## The statements -/

/-- Settles O23: the row fills X with the masked spectrum, bin by bin zero or the old one. -/
theorem maskZeroesOutsideThePassBand : Obligations.MaskZeroesOutsideThePassBand := by
  intro i s x hx
  obtain ⟨len, -⟩ := (spectrum_eq_ok _ _).1 hx
  obtain ⟨v, hv⟩ := maskSpectrum_answers s.cfg.kMin s.cfg.kMax len i
  refine ⟨v, _, exec_mask_eq_next.2 ⟨x, v, hx, hv, rfl⟩, fun k hk out => ?_, fun k _ low high => ?_,
    (readCell_fullStore _ _).trans hv, rfl⟩
  · exact (readCell_fullStore _ k).trans (maskSpectrum_outside (len.symm ▸ hk) out)
  · exact (readCell_fullStore _ k).trans (maskSpectrum_inside x low high)

/-- Settles O24: the second call reads the masked spectrum and masks it to itself. -/
theorem maskTwiceIsMaskOnce : Obligations.MaskTwiceIsMaskOnce := by
  intro i j s t ht
  obtain ⟨x, v, hx, -, rfl⟩ := exec_mask_eq_next.1 ht
  have len : (maskSpectrum s.cfg.kMin s.cfg.kMax x).length = 256 :=
    (maskSpectrum_length _ _ _).trans ((spectrum_eq_ok _ _).1 hx).1
  obtain ⟨u, hu⟩ := maskSpectrum_answers s.cfg.kMin s.cfg.kMax len j
  have same := congrArg fullStore (maskSpectrum_maskSpectrum s.cfg.kMin s.cfg.kMax x)
  exact ⟨_, exec_mask_eq_next.2 ⟨_, u, (spectrum_eq_ok _ _).2 (.full len), hu, rfl⟩, same, fun k => congrArg (readCell · k) same⟩

end Sys2Proof.Machine
end

section
/-! The silent frames of R88: a spectrum whose bins are all zero, of either sign, filters to 256 zeros. An inverted pass band leaves such
a spectrum of every frame. A constant frame has all its energy in bin 0, which a mask from bin 1 on removes. -/

namespace Sys2Proof.Machine

/-! ## Operations whose exact result is a word -/

section
variable {a b w u : F32}

theorem fadd_value (h : fadd a b = .ok w) (fu : finite u = true) (exact : fvalue a + fvalue b = fvalue u) :
    fvalue w = fvalue u := by
  have near := (fadd_nearest h).1 u fu
  omega

theorem fsub_value (h : fsub a b = .ok w) (fu : finite u = true) (exact : fvalue a - fvalue b = fvalue u) :
    fvalue w = fvalue u :=
  fadd_value h fu (by rw [fvalue_fneg]; exact exact)

theorem fmul_value (h : fmul a b = .ok w) (fu : finite u = true) (exact : fvalue a * fvalue b = fvalue u * 2 ^ 149) :
    fvalue w = fvalue u := by
  obtain ⟨fa, fb, -⟩ := fmul_ok a b w h
  obtain ⟨-, product⟩ := multiplicationIsCorrectlyRounded
  obtain ⟨-, rounded⟩ := product a b fa fb
  obtain ⟨-, -, near, -⟩ := rounded w h
  have at_u := near u fu
  omega

theorem fmul_fone_value (h : fmul fone a = .ok w) : fvalue w = fvalue a :=
  have ⟨_, fa, _⟩ := fmul_ok fone a w h
  fmul_value h fa (by rw [show fvalue fone = 2 ^ 149 by decide, mul_comm])

/-- A zero factor, of either sign. -/
theorem fmul_zero_value (h : fmul a b = .ok w) (zero : fvalue a = 0 ∨ fvalue b = 0) : fvalue w = 0 :=
  fmul_value (u := fzero) h rfl (mul_eq_zero.2 zero)

theorem fadd_zero_value (h : fadd a b = .ok w) (za : fvalue a = 0) (zb : fvalue b = 0) : fvalue w = 0 :=
  fadd_value (u := fzero) h rfl (by rw [za, zb]; rfl)

/-- The difference of equal values. -/
theorem fsub_self_value (h : fsub a b = .ok w) (same : fvalue a = fvalue b) : fvalue w = 0 :=
  fsub_value (u := fzero) h rfl (sub_eq_zero.2 same)

/-- A zero dividend. -/
theorem fdiv_zero_value (h : fdiv a b = .ok w) (zero : fvalue a = 0) : fvalue w = 0 := by
  rw [fvalue_eq_zero_iff] at zero ⊢
  unfold fdiv at h
  split at h
  · refine Nat.le_zero.1 (roundUnits_le_multiple (c := 0) (n := 0) h (by decide) ?_)
    simp [zero]
  · cases h

end

/-! ## Zero bins -/

/-- Both parts are zero, of either sign. -/
def ZeroBin (z : Cplx) : Prop := fvalue z.re = 0 ∧ fvalue z.im = 0

theorem czero_zeroBin : ZeroBin czero := ⟨rfl, rfl⟩

theorem cadd_zeroBin {a b z : Cplx} (h : cadd a b = .ok z) (ha : ZeroBin a) (hb : ZeroBin b) : ZeroBin z :=
  have ⟨re, im⟩ := cadd_eq_ok.1 h
  ⟨fadd_zero_value re ha.1 hb.1, fadd_zero_value im ha.2 hb.2⟩

theorem csub_zeroBin {a b z : Cplx} (h : csub a b = .ok z) (re : fvalue a.re = fvalue b.re) (im : fvalue a.im = fvalue b.im) :
    ZeroBin z :=
  have ⟨hre, him⟩ := csub_eq_ok.1 h
  ⟨fsub_self_value hre re, fsub_self_value him im⟩

theorem cmul_zeroBin {a b z : Cplx} (h : cmul a b = .ok z) (hb : ZeroBin b) : ZeroBin z := by
  obtain ⟨rr, ii, ri, ir, re, im, hrr, hii, hri, hir, hre, him, rfl⟩ := cmul_eq_ok.1 h
  obtain ⟨zre, zim⟩ := hb
  have prod_re : fvalue rr = fvalue ii := (fmul_zero_value hrr (.inr zre)).trans (fmul_zero_value hii (.inr zim)).symm
  exact ⟨fsub_self_value hre prod_re, fadd_zero_value him (fmul_zero_value hri (.inr zim)) (fmul_zero_value hir (.inr zre))⟩

/-- The first twiddle of a block is 1, so it keeps a real value. -/
theorem cmul_cone_value {b z : Cplx} (h : cmul cone b = .ok z) (real : fvalue b.im = 0) :
    fvalue z.re = fvalue b.re ∧ fvalue z.im = 0 := by
  obtain ⟨rr, ii, ri, ir, re, im, hrr, hii, hri, hir, hre, him, rfl⟩ := cmul_eq_ok.1 h
  obtain ⟨-, fb, -⟩ := fmul_ok _ _ _ hrr
  refine ⟨fsub_value hre fb ?_, fadd_zero_value him (fmul_zero_value hri (.inr real)) (fmul_zero_value hir (.inl rfl))⟩
  rw [fmul_fone_value hrr, fmul_zero_value hii (.inl rfl), sub_zero]

/-! ## The output of a zero spectrum -/

theorem isSumTurn_zero {table : List Cplx} {n k : Nat} {z : Cplx} {acc acc' : F32} (turn : IsSumTurn table n k z acc acc')
    (hz : ZeroBin z) (ha : fvalue acc = 0) : fvalue acc' = 0 := by
  obtain ⟨c, a, b, d, -, hre, him, hd, hacc⟩ := turn
  have same : fvalue a = fvalue b := (fmul_zero_value hre (.inl hz.1)).trans (fmul_zero_value him (.inl hz.2)).symm
  exact fadd_zero_value hacc ha (fsub_self_value hd same)

theorem sumLoop_zero {table : List Cplx} {n k : Nat} {x : List Cplx} {acc w : F32} (h : sumLoop table n k x acc = .ok w)
    (hx : ∀ z ∈ x, ZeroBin z) (ha : fvalue acc = 0) : fvalue w = 0 := by
  induction x generalizing k acc with
  | nil => cases h; exact ha
  | cons z rest ih =>
    obtain ⟨hz, hrest⟩ := List.forall_mem_cons.1 hx
    obtain ⟨acc', turn, run⟩ := sumLoop_cons_eq_ok.1 h
    exact ih run hrest (isSumTurn_zero turn hz ha)

theorem ifftSum_zero {table x : List Cplx} {n : Nat} {v : F32} (h : ifftSum table x n = .ok v) (hx : ∀ z ∈ x, ZeroBin z) :
    fvalue v = 0 := by
  obtain ⟨w, hw, hv⟩ := ifftSum_eq_ok.1 h
  exact fdiv_zero_value hv (sumLoop_zero hw hx rfl)

theorem narrowWord_zero {y : F32} {v : Sample} (h : narrowWord y = .ok v) (zero : fvalue y = 0) : v = 0#16 := by
  have units := (fvalue_eq_zero_iff y).1 zero
  have hf : finite y = true := by
    by_contra nonfinite
    rw [narrowWord_nonfinite (Bool.eq_false_of_not_eq_true nonfinite)] at h
    cases h
  rw [narrowWord_in_range hf (units ▸ Nat.two_pow_pos 180)] at h
  have trunc : truncInt y = 0 := by rw [← Int.natAbs_eq_zero, truncInt_natAbs, units, Nat.zero_div]
  rw [← Except.ok.inj h, trunc]
  rfl

theorem mem_of_mapChecked {α β : Type} {f : α → Except Fault β} {l : List α} {r : List β} (h : mapChecked f l = .ok r)
    {b : β} (hb : b ∈ r) : ∃ a ∈ l, f a = .ok b := by
  obtain ⟨i, hi, rfl⟩ := List.getElem_of_mem hb
  obtain ⟨a, ha, mem⟩ := getElem?_mem_of_lt (l := l) (i := i) (mapChecked_length _ _ _ h ▸ hi)
  obtain ⟨b, image, at_i⟩ := mapChecked_getElem? h ha
  rw [List.getElem?_eq_getElem hi, Option.some.injEq] at at_i
  exact ⟨a, mem, at_i ▸ image⟩

/-- R88: nothing is heard of a spectrum of zero bins. -/
theorem filterFrame_of_zeroBins {kMin kMax : Nat} {v : List Sample} {r : Filtered} (h : filterFrame kMin kMax v = .ok r)
    (hx : ∀ z ∈ r.x, ZeroBin z) : r.out = List.replicate 256 0#16 := by
  obtain ⟨x, -, -, -, hy, ho⟩ := (filterFrame_eq_ok _ _ _ _).1 h
  refine List.eq_replicate_iff.2 ⟨filterFrame_out_length h, fun q hq => ?_⟩
  obtain ⟨y, mem, narrowed⟩ := mem_of_mapChecked ho hq
  obtain ⟨n, -, sum⟩ := mem_of_mapChecked hy mem
  exact narrowWord_zero narrowed (ifftSum_zero sum hx)

/-! ## The transform of a constant frame -/

/-- After stage `st` the bins of a constant frame: one real value in every bin that 2^st divides, zero in the others. -/
def CombAfter (st : Nat) (f : Nat → Cplx) : Prop :=
  ∃ e : Cplx, fvalue e.im = 0 ∧ ∀ p, p < 256 → (2 ^ st ∣ p → f p = e) ∧ (¬ 2 ^ st ∣ p → ZeroBin (f p))

/-- In the first half of its group of 2^(st+1) bins, only the group's first bin is a multiple of 2^st. -/
theorem dvd_of_first_half {st q : Nat} (first : q % 2 ^ (st + 1) < 2 ^ st) (h : 2 ^ st ∣ q) : 2 ^ (st + 1) ∣ q := by
  have folded := Nat.mod_mod_of_dvd q (pow_dvd_pow 2 (Nat.le_succ st))
  rw [Nat.mod_eq_of_lt first] at folded
  exact Nat.dvd_of_mod_eq_zero (folded.trans (Nat.mod_eq_zero_of_dvd h))

theorem not_dvd_of_second_half {st q : Nat} (first : q % 2 ^ (st + 1) < 2 ^ st) : ¬ 2 ^ (st + 1) ∣ q + 2 ^ st := by
  intro h
  have group : 2 ^ (st + 1) ∣ q :=
    dvd_of_first_half first ((Nat.dvd_add_left (dvd_refl _)).1 ((pow_dvd_pow 2 (Nat.le_succ st)).trans h))
  have := Nat.le_of_dvd (Nat.two_pow_pos st) ((Nat.dvd_add_right group).1 h)
  have := Nat.pow_lt_pow_right (a := 2) (by decide) (Nat.lt_succ_self st)
  omega

/-- The butterflies of a stage on such bins: two teeth of the comb add up in the first bin of their pair and cancel in the second,
and any other pair is zero and stays so. -/
theorem CombAfter.stage {st : Nat} (h : st < 8) {f g : Nat → Cplx} {wm : Cplx} (comb : CombAfter st f)
    (pairs : ∀ p, p < 256 → p % 2 ^ (st + 1) < 2 ^ st → ∃ w z, twiddlePower wm (p % 2 ^ (st + 1)) = .ok w ∧
      cmul w (f (p + 2 ^ st)) = .ok z ∧ cadd (f p) z = .ok (g p) ∧ csub (f p) z = .ok (g (p + 2 ^ st))) :
    CombAfter (st + 1) g := by
  obtain ⟨e, real, bins⟩ := comb
  have tooth (q : Nat) (hq : q + 2 ^ st < 256) (div : 2 ^ (st + 1) ∣ q) :
      ∃ z, cmul cone e = .ok z ∧ cadd e z = .ok (g q) ∧ csub e z = .ok (g (q + 2 ^ st)) := by
    have half : 2 ^ st ∣ q := (pow_dvd_pow 2 (Nat.le_succ st)).trans div
    have start := Nat.mod_eq_zero_of_dvd div
    obtain ⟨w, z, hw, hz, ha, hb⟩ := pairs q (by omega) (start ▸ Nat.two_pow_pos st)
    rw [start] at hw
    obtain rfl : cone = w := Except.ok.inj hw
    rw [(bins q (by omega)).1 half] at ha hb
    rw [(bins _ hq).1 (half.add (dvd_refl _))] at hz
    exact ⟨z, hz, ha, hb⟩
  have gap (q : Nat) (hq : q + 2 ^ st < 256) (first : q % 2 ^ (st + 1) < 2 ^ st) (ndiv : ¬ 2 ^ (st + 1) ∣ q) :
      ZeroBin (g q) ∧ ZeroBin (g (q + 2 ^ st)) := by
    have off : ¬ 2 ^ st ∣ q := fun d => ndiv (dvd_of_first_half first d)
    obtain ⟨w, z, -, hz, ha, hb⟩ := pairs q (by omega) first
    have even := (bins q (by omega)).2 off
    have prod := cmul_zeroBin hz ((bins _ hq).2 fun d => off ((Nat.dvd_add_left (dvd_refl _)).1 d))
    exact ⟨cadd_zeroBin ha even prod, csub_zeroBin hb (even.1.trans prod.1.symm) (even.2.trans prod.2.symm)⟩
  have range : 0 + 2 ^ st < 256 := by
    rw [Nat.zero_add]; exact Nat.pow_lt_pow_right (n := 8) (by decide) h
  obtain ⟨z, hz, sum, -⟩ := tooth 0 range (dvd_zero _)
  obtain ⟨same, zim⟩ := cmul_cone_value hz real
  refine ⟨g 0, fadd_zero_value (cadd_eq_ok.1 sum).2 real zim, fun p hp => ?_⟩
  obtain ⟨q, hq, first, rfl | rfl⟩ := pair_of_bin h hp
  · refine ⟨fun div => ?_, fun ndiv => (gap p hq first ndiv).1⟩
    obtain ⟨z', hz', ha, -⟩ := tooth p hq div
    obtain rfl : z = z' := Except.ok.inj (hz.symm.trans hz')
    exact Except.ok.inj (ha.symm.trans sum)
  · refine ⟨fun div => absurd div (not_dvd_of_second_half first), fun _ => ?_⟩
    by_cases div : 2 ^ (st + 1) ∣ q
    · obtain ⟨z', hz', -, hb⟩ := tooth q hq div
      obtain rfl : z = z' := Except.ok.inj (hz.symm.trans hz')
      exact csub_zeroBin hb same.symm (real.trans zim.symm)
    · exact (gap q hq first div).2

/-- R88: the transform of a constant frame is zero in every bin but bin 0. -/
theorem isTransform_constant {c : Sample} {x : List Cplx} (h : isTransform (List.replicate 256 c) x) {k : Nat} {z : Cplx}
    (hz : x[k]? = some z) (pos : 0 < k) : ZeroBin z := by
  obtain ⟨f, start, stages, len, last⟩ := h
  have comb (st : Nat) (hst : st ≤ 8) : CombAfter st (f st) := by
    induction st with
    | zero =>
      have bin (i : BitVec 8) : ∃ w, widenSample c = .ok w ∧ f 0 i.toNat = ⟨w, fzero⟩ := by
        obtain ⟨q, w, hq, hw, at_i⟩ := start i
        obtain rfl : q = c := List.eq_of_mem_replicate (List.mem_of_getElem? hq)
        exact ⟨w, hw, at_i⟩
      obtain ⟨w, hw, -⟩ := bin 0#8
      refine ⟨⟨w, fzero⟩, show fvalue fzero = 0 from rfl, fun p hp => ⟨fun _ => ?_, fun ndiv => absurd (one_dvd p) ndiv⟩⟩
      obtain ⟨w', hw', at_p⟩ := bin (BitVec.ofNat 8 p)
      obtain rfl : w = w' := Except.ok.inj (hw.symm.trans hw')
      rwa [BitVec.toNat_ofNat, Nat.mod_eq_of_lt hp] at at_p
    | succ st ih =>
      obtain ⟨wm, -, pairs⟩ := stages (st + 1) (Nat.le_add_left 1 st) hst
      exact (ih (Nat.le_of_lt hst)).stage hst pairs
  have hk : k < 256 := len ▸ (List.getElem?_eq_some_iff.1 hz).1
  obtain ⟨e, -, bins⟩ := comb 8 (Nat.le_refl 8)
  obtain rfl : z = f 8 k := Option.some.inj (hz.symm.trans (last k hk))
  exact (bins k hk).2 (Nat.not_dvd_of_pos_of_lt pos hk)

/-! ## The statement -/

/-- Of a masked spectrum holds what holds of +0.0 and of the bins of the pass band. -/
theorem forall_mem_maskSpectrum {kMin kMax : Nat} {x : List Cplx} {P : Cplx → Prop} (zero : P czero)
    (kept : ∀ k z, x[k]? = some z → kMin ≤ k → k ≤ kMax → P z) : ∀ z ∈ maskSpectrum kMin kMax x, P z := by
  intro z hz
  obtain ⟨k, hk⟩ := List.mem_iff_getElem?.1 hz
  have inside : k < x.length := by
    rw [← maskSpectrum_length kMin kMax]; exact (List.getElem?_eq_some_iff.1 hk).1
  by_cases out : k < kMin ∨ kMax < k
  · rw [maskSpectrum_outside inside out] at hk
    exact Option.some.inj hk ▸ zero
  · rw [maskSpectrum_inside x (by omega) (by omega)] at hk
    exact kept k z hk (by omega) (by omega)

/-- Every frame filters, from the masked bins of its transform. -/
theorem filterFrame_of_transform (kMin kMax : Nat) {v : List Sample} (hv : v.length = 256) : ∃ r x,
    filterFrame kMin kMax v = .ok r ∧ r.x = maskSpectrum kMin kMax x ∧ x.length = 256 ∧ isTransform v x := by
  obtain ⟨r, hr⟩ := filterFrame_answers kMin kMax hv
  obtain ⟨x, hx, masked, -⟩ := (filterFrame_eq_ok _ _ _ _).1 hr
  obtain ⟨x', hx', transform, len, -⟩ := fftFrame_bounded hv
  obtain rfl : x = x' := Except.ok.inj (hx.symm.trans hx')
  exact ⟨r, x, hr, masked, len, transform⟩

/-- Settles O31: no bin lies in an inverted pass band, and the one bin that a constant frame fills lies below K_MIN. -/
theorem maskedOutFramesAreSilent : Obligations.MaskedOutFramesAreSilent := by
  refine ⟨fun kMin kMax v hv inverted => ?_, fun kMin kMax c low => ?_⟩
  · obtain ⟨r, x, hr, masked, len, -⟩ := filterFrame_of_transform kMin kMax hv
    have zeros : ∀ z ∈ r.x, z = czero := masked ▸ forall_mem_maskSpectrum rfl fun k z _ h1 h2 => by omega
    exact ⟨r, hr, List.eq_replicate_iff.2 ⟨masked ▸ (maskSpectrum_length _ _ _).trans len, zeros⟩,
      filterFrame_of_zeroBins hr fun z hz => zeros z hz ▸ czero_zeroBin⟩
  · obtain ⟨r, x, hr, masked, -, transform⟩ := filterFrame_of_transform kMin kMax (v := List.replicate 256 c) List.length_replicate
    exact ⟨r, hr, filterFrame_of_zeroBins hr (masked ▸ forall_mem_maskSpectrum czero_zeroBin fun k z hz h1 _ =>
      isTransform_constant transform hz (by omega))⟩

end Sys2Proof.Machine
end

section
/-! WIDEN is exact (R92), packing and unpacking are inverse to each other (R94), and the pipeline answers on every frame (R95). -/

namespace Sys2Proof.Machine

/-! ## WIDEN -/

theorem sample_natAbs_le (v : Sample) : v.toInt.natAbs ≤ 32768 := by
  have low := v.le_toInt
  have high := v.toInt_lt
  omega

/-- A Sample has fewer than 24 bits, so widening does not round it (R92). -/
theorem widenSample_exact (v : Sample) : ∃ w, widenSample v = .ok w ∧ finite w = true ∧ fvalue w = v.toInt * 2 ^ 149 := by
  obtain ⟨w, hw, ⟨fw, -⟩, value⟩ := f32OfInt_within (sample_natAbs_le v) (by decide)
  exact ⟨w, hw, fw, value⟩

theorem widenSample_zero : widenSample 0#16 = .ok 0x00000000#32 := by decide

theorem execWiden_of_ok {v : Sample} {w : F32} (s : State) (h : widenSample v = .ok w) :
    exec (.widen v) s = .next (s.returning (.word w)) := by
  rw [exec, execWiden, h]; rfl

/-- Settles O26: a Sample is an integer of fewer than 24 bits. -/
theorem widenIsExact : Obligations.WidenIsExact := by
  refine ⟨fun v s => ?_, by decide, by decide, by decide⟩
  obtain ⟨w, hw, fw, value⟩ := widenSample_exact v
  refine ⟨w, execWiden_of_ok s hw, fw, value, ?_⟩
  rintro rfl
  exact Except.ok.inj (hw.symm.trans widenSample_zero)

/-! ## PACK -/

theorem sampleOf_bytes (v : Sample) : sampleOf (lowByte v) (highByte v) = v :=
  (BitVec.extractLsb'_append_extractLsb'_eq_extractLsb' rfl).trans BitVec.extractLsb'_eq_self

theorem lowByte_sampleOf (lo hi : Byte) : lowByte (sampleOf lo hi) = lo :=
  BitVec.extractLsb'_append_eq_right

theorem highByte_sampleOf (lo hi : Byte) : highByte (sampleOf lo hi) = hi :=
  BitVec.extractLsb'_append_eq_left

theorem unpackBytes_length (b : List Byte) : (unpackBytes b).length = b.length / 2 := by
  induction b using unpackBytes.induct with
  | case1 lo hi t ih => simp only [unpackBytes, List.length_cons, ih]; omega
  | case2 b short =>
    match b with
    | [] => rfl
    | [_] => simp [unpackBytes]
    | lo :: hi :: t => exact absurd rfl (short lo hi t)

theorem unpackBytes_packSamples (v : List Sample) : unpackBytes (packSamples v) = v := by
  induction v with
  | nil => rfl
  | cons q t ih => rw [packSamples, unpackBytes, sampleOf_bytes, ih]

theorem packSamples_unpackBytes {b : List Byte} (even : b.length % 2 = 0) : packSamples (unpackBytes b) = b := by
  induction b using unpackBytes.induct with
  | case1 lo hi t ih =>
    rw [List.length_cons, List.length_cons] at even
    rw [unpackBytes, packSamples, lowByte_sampleOf, highByte_sampleOf, ih (by omega)]
  | case2 b short =>
    match b with
    | [] => rfl
    | [_] => cases even
    | lo :: hi :: t => exact absurd rfl (short lo hi t)

/-- Sample `i` fills bytes 2i and 2i + 1 (R94). -/
theorem packSamples_sample {v : List Sample} {i : Nat} {z : Sample} (hz : v[i]? = some z) :
    (packSamples v)[2 * i]? = some (lowByte z) ∧ (packSamples v)[2 * i + 1]? = some (highByte z) := by
  constructor
  · rw [packSamples_getElem?, Nat.mul_div_cancel_left i two_pos, hz, Option.map_some, if_pos (by omega)]
  · rw [packSamples_getElem?, show (2 * i + 1) / 2 = i by omega, hz, Option.map_some, if_neg (by omega)]

theorem exec_pack_of_sample {k : BitVec 8} {s : State} {v : List Sample} {z : Sample} (hv : s.foutSamples = .ok v)
    (hz : v[k.toNat]? = some z) : exec (.pack k) s = .next (s.returning (.bytes (lowByte z) (highByte z))) := by
  obtain ⟨low, high⟩ := packSamples_sample hz
  simp only [exec, execPack, finish_eq_next, bind_eq_ok, pure_eq_ok, elemOf_eq_ok]
  exact ⟨v, hv, _, low, _, high, rfl⟩

/-- Settles O28: a pair of bytes and the Sample they form determine each other. -/
theorem packIsTheInverseOfUnpack : Obligations.PackIsTheInverseOfUnpack := by
  refine ⟨fun k s v hv => ?_, fun v => ⟨unpackBytes_packSamples v, fun _ _ => packSamples_sample⟩,
    fun b => packSamples_unpackBytes⟩
  have len := ((readRun_eq_ok_iff_stored _ _).1 hv).1
  obtain ⟨z, hz, -⟩ := getElem?_mem_of_lt (l := v) (i := k.toNat) (by omega)
  exact ⟨z, hz, exec_pack_of_sample hv hz⟩

/-! ## FILTER -/

/-- Settles O29: every value of the pipeline stays in the finite range, and it keeps the number of Samples. -/
theorem filterIsTotalOnEveryFrame : Obligations.FilterIsTotalOnEveryFrame := by
  intro kMin kMax v hv
  obtain ⟨r, hr⟩ := filterFrame_answers kMin kMax hv
  exact ⟨r, hr, filterFrame_out_length hr⟩

theorem exec_filter_of_answers {n : BitVec 8} {s : State} {v : List Sample} {r : Filtered} {z : Sample}
    (hv : s.finSamples = .ok v) (hr : filterFrame s.cfg.kMin s.cfg.kMax v = .ok r) (hz : r.out[n.toNat]? = some z) :
    exec (.filter n) s = .next ((s.withWork (s.work.withFiltered r)).returning (.sample z)) := by
  simp only [exec, execFilter, finish_eq_next, bind_eq_ok, pure_eq_ok]
  exact ⟨v, hv, r, hr, z, (elemOf_eq_ok _ _ _).2 hz, rfl⟩

/-- Settles O30: FIN holds 256 Samples, and the stages of their pipeline run are the parts of `filterFrame`. -/
theorem filterReturnsTheFilteredSample : Obligations.FilterReturnsTheFilteredSample := by
  intro n s v hv
  obtain ⟨r, hr⟩ := filterFrame_answers s.cfg.kMin s.cfg.kMax (finSamples_spec hv).1
  obtain ⟨x, hx, masked, ht, hy, ho⟩ := (filterFrame_eq_ok _ _ _ _).1 hr
  have len := filterFrame_out_length hr
  obtain ⟨z, hz, -⟩ := getElem?_mem_of_lt (l := r.out) (i := n.toNat) (by omega)
  exact ⟨x, r.table, r.y, r.out, z, _, hx, ht, masked ▸ hy, ho, hz, exec_filter_of_answers hv hr hz,
    fun i _ => readCell_fullStore r.y i, rfl⟩

end Sys2Proof.Machine
end

section
/-! The stream equation (R96): the accepted bytes determine every output frame, and what has been emitted is a prefix of those. -/

namespace Sys2Proof.Machine

/-! ## The output frames of a stream -/

theorem frameAt_length {log : List Byte} {j : Nat} (whole : 512 * (j + 1) ≤ log.length) : (frameAt log j).length = 512 := by
  rw [frameAt, List.length_take, List.length_drop]
  omega

/-- OUT(j) of R96, and no byte where the pipeline does not answer. -/
def outputAt (p : Params) (log : List Byte) (j : Nat) : List Byte :=
  match filterFrame p.kMin p.kMax (unpackBytes (frameAt log j)) with
  | .ok r => outputFrame r.out
  | .error _ => []

theorem outputAt_of_isOutput {p : Params} {log out : List Byte} {j : Nat} (h : isOutput p (frameAt log j) out) :
    outputAt p log j = out := by
  obtain ⟨r, hr, rfl⟩ := h
  simp only [outputAt, hr, outputFrame]

theorem isOutput_outputAt (p : Params) {log : List Byte} {j : Nat} (whole : 512 * (j + 1) ≤ log.length) :
    isOutput p (frameAt log j) (outputAt p log j) := by
  have len : (unpackBytes (frameAt log j)).length = 256 := by rw [unpackBytes_length, frameAt_length whole]
  obtain ⟨r, hr⟩ := filterFrame_answers p.kMin p.kMax len
  exact ⟨r, hr, by simp only [outputAt, hr, outputFrame]⟩

/-- OUT(0), …, OUT(J − 1) of R96, one for each whole frame of the stream. -/
def outputFrames (p : Params) (log : List Byte) : List (List Byte) := (List.range (log.length / 512)).map (outputAt p log)

theorem outputFrames_length (p : Params) (log : List Byte) : (outputFrames p log).length = log.length / 512 := by
  rw [outputFrames, List.length_map, List.length_range]

theorem outputFrames_getElem? (p : Params) {log : List Byte} {j : Nat} (whole : 512 * (j + 1) ≤ log.length) :
    (outputFrames p log)[j]? = some (outputAt p log j) := by
  rw [outputFrames, List.getElem?_map, List.getElem?_range (by omega), Option.map_some]

theorem outputFrames_isOutput {p : Params} {log out : List Byte} {j : Nat} (h : (outputFrames p log)[j]? = some out) :
    isOutput p (frameAt log j) out := by
  have hj := (List.getElem?_eq_some_iff.1 h).1
  rw [outputFrames_length] at hj
  have whole : 512 * (j + 1) ≤ log.length := by omega
  obtain rfl : outputAt p log j = out := Option.some.inj ((outputFrames_getElem? p whole).symm.trans h)
  exact isOutput_outputAt p whole

/-- Output frames of the first whole frames are the first output frames. -/
theorem prefix_outputFrames {p : Params} {log : List Byte} {outs : List (List Byte)}
    (filtered : ∀ j out, outs[j]? = some out → isOutput p (frameAt log j) out) (whole : 512 * outs.length ≤ log.length) :
    outs <+: outputFrames p log := by
  refine List.prefix_iff_getElem?.2 fun j hj => ?_
  rw [outputFrames_getElem? p (by omega), outputAt_of_isOutput (filtered j _ (List.getElem?_eq_getElem hj))]

/-! ## The emitted bytes -/

theorem ConsumerHolds.emitted_prefix {s : State} {T : Nat} {outs : List (List Byte)} (h : ConsumerHolds s T outs) :
    s.emitted <+: outs.flatten := by
  obtain state | state | state := consState_cases h.code
  · obtain ⟨-, emitted⟩ := h.waiting state
    exact emitted ▸ List.prefix_rfl
  · obtain ⟨-, emitted, -, -⟩ := h.processing state
    exact emitted ▸ List.prefix_rfl
  · obtain ⟨past, last, rfl, -, emitted, -, -⟩ := h.emitting state
    rw [emitted, List.flatten_concat, List.prefix_append_right_inj]
    exact List.take_prefix _ _

/-- Settles O52: CONS has emitted a prefix of the output frames it has filtered, and the ring hands it no frame that was not
accepted whole. -/
theorem emittedBytesFollowTheStreamEquation : Obligations.EmittedBytesFollowTheStreamEquation := by
  rintro s ⟨H, T, hs, ts, outs, counts⟩
  obtain ⟨producer, consumer, ring⟩ := (streamCounts_iff ..).1 counts
  obtain ⟨-, known, published, -⟩ := ring.bounds
  have staged := producer.staged_length_le
  have filtered := consumer.outs_le
  have first := prefix_outputFrames consumer.filtered (by omega)
  exact ⟨outputFrames s.cfg s.inLog, outputFrames_length .., fun j out hj =>
    ⟨outputFrames_isOutput hj, isOutput_length (outputFrames_isOutput hj)⟩, consumer.emitted_prefix.trans first.flatten⟩

end Sys2Proof.Machine
end

section
/-! The ring invariant (R103) is the crossing part of the stream invariant, kept without the rest of it: each agent's move keeps its
side of the bounds from the view it holds, and each view only lags its pointer. -/

namespace Sys2Proof.Machine

theorem StreamInv.ringInv {s : State} (inv : StreamInv s) : RingInv s := by
  obtain ⟨H, T, hs, ts, outs, counts⟩ := inv
  exact ⟨H, T, hs, ts, counts.crossing⟩

/-- PROD keeps R103 against `tv`, CONS against `hv`, and a move of the crossing takes neither view back. -/
theorem Combines.ringInv {s a b t : State} (c : Combines s a b t) (hl : s.cfg.legal = true) (ma : ProducerMove s a)
    (mb : ConsumerMove s b) (inv : RingInv s) : RingInv t := by
  obtain ⟨H, T, hs, ts, counts⟩ := inv
  exact ⟨_, _, counts.moves hl (ma.headStep hl counts) (mb.tailStep hl counts) c.cfg (by rw [c.prod]) (by rw [c.prod])
    (by rw [c.prod]) (by rw [c.cons]) (by rw [c.cons]) c.head c.tail⟩

/-- Taking an event from the inbox moves neither a pointer nor a code. -/
theorem RingInv.inbox {s : State} (inv : RingInv s) (hl : s.cfg.legal = true) (rest : List Event) :
    RingInv { s with inbox := rest } :=
  Combines.ringInv (s := s) (a := s) (b := s)
    ⟨rfl, rfl, rfl, rfl, rfl, rfl, rfl, .stays .., .stays ..⟩ hl .stays .stays inv

/-- Settles O50: a step resets the registers, or combines a move of each agent with a move of the crossing. -/
theorem ringInvariantIsKept : Obligations.RingInvariantIsKept := by
  intro s t inv h
  obtain ⟨hl, rfl | ⟨rest, ⟨-, l, rfl⟩ | ht⟩⟩ := step_transition s t h
  · exact inv
  · exact (streamInv_registersReset (s := { s with inbox := rest }) hl l).ringInv
  · obtain ⟨a, b, ma, mb, c⟩ := ht.combines
    exact c.ringInv hl ma mb (inv.inbox hl rest)

end Sys2Proof.Machine
end

section
/-! The Gray code (R97): it is linear for XOR, one to one on the pointers of a width, and a pointer's advance changes one bit.
SYNC_H and SYNC_T copy a pointer through it (R98), and a failed commit leaves the ring alone (R105, R110). -/

namespace Sys2Proof.Machine

/-! ## The code -/

theorem grayOf_xor (a b : Nat) : grayOf a ^^^ grayOf b = grayOf (a ^^^ b) := by
  simp only [grayOf, Nat.shiftRight_xor_distrib]
  ac_rfl

theorem testBit_grayOf (b i : Nat) : (grayOf b).testBit i = xor (b.testBit i) (b.testBit (i + 1)) := by
  rw [grayOf, Nat.testBit_xor, Nat.testBit_shiftRight, Nat.add_comm]

/-- Every code of the width is a pointer's: the encoder has an inverse on a finite set. -/
theorem exists_grayOf_eq {w g : Nat} (h : g < 2 ^ w) : ∃ b, b < 2 ^ w ∧ grayOf b = g := by
  have maps : Set.MapsTo grayOf (Finset.range (2 ^ w)) (Finset.range (2 ^ w)) := fun b hb =>
    Finset.mem_range.2 (grayOf_lt (Finset.mem_range.1 hb))
  have injective : Set.InjOn grayOf (Finset.range (2 ^ w)) := fun a ha b hb hab => by
    rw [← grayInv_grayOf (Finset.mem_range.1 ha), hab, grayInv_grayOf (Finset.mem_range.1 hb)]
  obtain ⟨b, hb, code⟩ := Finset.surjOn_of_injOn_of_card_le grayOf maps injective le_rfl (Finset.mem_range.2 h)
  exact ⟨b, Finset.mem_range.1 hb, code⟩

/-! ## Neighbouring pointers -/

/-- An advance mod 2^w flips the pointer's lowest bits, up to its lowest 0 or all of them at the wrap. -/
theorem advance_xor {w : Nat} (hw : 1 ≤ w) (b : Nat) (hb : b < 2 ^ w) :
    ∃ k, k < w ∧ (b + 1) % 2 ^ w ^^^ b = 2 ^ (k + 1) - 1 := by
  induction w, hw using Nat.le_induction generalizing b with
  | base => exact ⟨0, by decide, by interval_cases b <;> rfl⟩
  | succ w hw ih =>
    obtain ⟨c, rfl | rfl⟩ := Nat.even_or_odd' b
    · have low : 2 * c + 1 ^^^ 2 * c = 2 * (c ^^^ c) + 1 := Nat.xor_bit true c false c
      exact ⟨0, Nat.succ_pos w, by rw [Nat.mod_eq_of_lt (by omega), low, Nat.xor_self]; rfl⟩
    · obtain ⟨k, hk, flips⟩ := ih c (by omega)
      have carry : (2 * c + 1 + 1) % 2 ^ (w + 1) = 2 * ((c + 1) % 2 ^ w) := by
        rw [show 2 * c + 1 + 1 = 2 * (c + 1) by ring, pow_succ', Nat.mul_mod_mul_left]
      have low (x : Nat) : 2 * x ^^^ 2 * c + 1 = 2 * (x ^^^ c) + 1 := Nat.xor_bit false x true c
      have ones := Nat.two_pow_pos k
      exact ⟨k + 1, by omega, by rw [carry, low, flips]; omega⟩

/-- The code of a run of 1 bits is its top bit. -/
theorem grayOf_ones (k : Nat) : grayOf (2 ^ (k + 1) - 1) = 2 ^ k := by
  refine Nat.eq_of_testBit_eq fun i => ?_
  rw [testBit_grayOf, Nat.testBit_two_pow_sub_one, Nat.testBit_two_pow_sub_one, Nat.testBit_two_pow, Bool.eq_iff_iff,
    Bool.xor_iff_ne, ne_eq, decide_eq_decide, decide_eq_true_eq]
  omega

/-- Settles O32: the encoder is one to one, so the decoder inverts it, and an advance flips a run of low bits. -/
theorem grayRowsFollowTheCode : Obligations.GrayRowsFollowTheCode := by
  refine ⟨fun b s hb => ?_, fun g s hg => ?_, fun w b hw hb => ?_, by decide, by decide, by decide, by decide, by decide⟩
  · refine ⟨grayOf b, rfl, grayOf_lt hb, if_pos hb, ?_⟩
    rw [exec, execGrayDec, if_pos (grayOf_lt hb), grayInv_grayOf hb]
  · obtain ⟨b, hb, rfl⟩ := exists_grayOf_eq hg
    refine ⟨b, hb, fun i _ => ?_, ?_⟩
    · rw [testBit_grayOf, Bool.xor_comm, Bool.xor_assoc, Bool.xor_self, Bool.xor_false]
    · rw [exec, execGrayDec, if_pos hg, grayInv_grayOf hb]
  · obtain ⟨k, hk, flips⟩ := advance_xor hw b hb
    exact ⟨k, hk, by rw [grayOf_xor, flips, grayOf_ones]⟩

/-! ## SYNC_H and SYNC_T -/

/-- A chain whose flops all hold a pointer's code shows the pointer. -/
theorem grayInv_crossed {p : Params} (hl : p.legal = true) {b : Nat} (hb : b < p.slots) {chain : List Nat} (hne : chain ≠ []) :
    grayInv p.fptrW (lastFlop (chain.map fun _ => grayOf b)) = b := by
  obtain ⟨w, -, hslots, hwidth, -⟩ := legal_ring hl
  have last : lastFlop (chain.map fun _ => grayOf b) = grayOf b := by
    rw [lastFlop, List.getLastD_eq_getLast?, List.getLast?_map, List.getLast?_eq_some_getLast hne]
    rfl
  rw [last, hwidth, grayInv_grayOf (hslots ▸ hb)]

/-- Settles O33: the whole chain takes the pointer's code, so the view reads the pointer. -/
theorem syncRowsCopyThePointer : Obligations.SyncRowsCopyThePointer := by
  intro g s hl
  refine ⟨fun out range hne => ?_, fun out range hne => ?_, fun reset => ?_, fun reset => ?_⟩
  · exact ⟨s.headCrossed, (execSyncH_eq_next g _ _).2 ⟨out, rfl⟩, grayInv_crossed hl range hne, rfl, rfl⟩
  · exact ⟨s.tailCrossed, (execSyncT_eq_next g _ _).2 ⟨out, rfl⟩, grayInv_crossed hl range hne, rfl, rfl⟩
  · rw [exec, execSyncH, reset]; rfl
  · rw [exec, execSyncT, reset]; rfl

/-! ## Backpressure -/

/-- R110: `bp_flag` is set, and `bp_count` counts the frame unless it was set already. -/
theorem backpressured_eq (s : State) : s.backpressured = { s with prod := { s.prod with
    bpFlag := true
    bpCount := if s.prod.bpFlag then s.prod.bpCount else s.prod.bpCount + 1#32 } } := by
  unfold State.backpressured
  split
  next counted => simp only [← counted]
  next => rfl

/-- Settles O37: the row answers `backpressured`, which writes no register of the ring. -/
theorem backpressureLeavesTheRingAlone : Obligations.BackpressureLeavesTheRingAlone := by
  intro v x s out hs full
  have row : exec (.commitBp v x) s = .next s.backpressured := (execCommitBp_eq_next v x s _).2 ⟨out, hs, full, rfl⟩
  rw [backpressured_eq] at row
  exact ⟨_, row, rfl, rfl, rfl, rfl, rfl, fun _ => rfl, hs, rfl⟩

end Sys2Proof.Machine
end

section
/-! PROD's rows (R108 to R110): ACCEPT stages one byte, and COMMIT is left only by publishing the frame or by a reset, with no byte
taken before. -/

namespace Sys2Proof.Machine

/-! ## No byte in COMMIT -/

/-- `in_ready` is 0 in COMMIT (R49 item 2). -/
theorem inReady_of_commit {s : State} (hs : s.prod.state = codeCommit) : s.inReady = false :=
  Bool.eq_false_iff.2 fun ready => (inReady_state s ready).2 hs

theorem execAccept_of_commit (st c : BitVec 1) (d : Byte) {s : State} (hs : s.prod.state = codeCommit) :
    execAccept st c d s = .refused .notEnabled := by
  rw [execAccept, if_neg (by rw [hs]; decide), if_pos (by rw [inReady_of_commit hs]; rfl)]

/-! ## ACCEPT -/

/-- The count of a frame not yet whole does not wrap. -/
theorem toNat_stageCnt_succ {n : BitVec 10} (free : n.toNat < 512) : (n + 1#10).toNat = n.toNat + 1 := by bv_omega

/-- The 512th byte enters COMMIT (R108), the count read as a number. -/
theorem accepted_state {s : State} (d : Byte) (free : s.prod.stageCnt.toNat < 512) :
    (s.accepted d).prod.state = if s.prod.stageCnt.toNat + 1 = 512 then codeCommit else codeAccum := by
  have full : s.prod.stageCnt + 1#10 = 512#10 ↔ s.prod.stageCnt.toNat + 1 = 512 := by
    rw [← BitVec.toNat_inj, toNat_stageCnt_succ free]; rfl
  simp only [State.accepted_prod_state, full]

/-- Settles O35: the row answers `State.accepted`, one write of STAGE at the count; in COMMIT `in_ready` is 0. -/
theorem acceptStagesTheByte : Obligations.AcceptStagesTheByte := by
  intro st c d s
  refine ⟨fun ready hs free => ?_, execAccept_of_commit st c d⟩
  have row : exec (.accept st c d) s = .next (s.accepted d) :=
    (execAccept_of_ready c d ready hs).trans (if_neg (by simpa [BitVec.le_def] using free))
  exact ⟨s.accepted d, row, readCell_writeCell_same _ _ d, fun i hi => readCell_writeCell_other _ d hi.symm,
    toNat_stageCnt_succ free, accepted_state d free, rfl, fun _ => rfl, rfl⟩

/-! ## Leaving COMMIT -/

/-- The publication of R109, as PROD's registers show it. -/
def PublishesFrame (s t : State) : Prop :=
  t.prod.state = codeIdle ∧ t.prod.hf = (s.prod.hf + 1) % s.slots ∧ t.prod.stageCnt = 0#10 ∧ t.prod.bpFlag = false

/-- From COMMIT: no byte is taken, and PROD stays there or publishes its frame (R110, R112). -/
def StaysOrPublishes (s t : State) : Prop := t.inLog = s.inLog ∧ (t.prod.state = codeCommit ∨ PublishesFrame s t)

theorem StaysOrPublishes.of_eq {s t : State} (hs : s.prod.state = codeCommit) (log : t.inLog = s.inLog)
    (state : t.prod.state = s.prod.state) : StaysOrPublishes s t := ⟨log, .inl (state.trans hs)⟩

theorem ProducerMove.staysOrPublishes {s a : State} (m : ProducerMove s a) (hs : s.prod.state = codeCommit) :
    StaysOrPublishes s a := by
  cases m with
  | accepts _ ready => exact absurd hs (inReady_state s ready).2
  | commits | publishes => exact ⟨rfl, .inr ⟨rfl, rfl, rfl, rfl⟩⟩
  | waitsForRoom => exact .of_eq hs (by simp) (by simp)
  | checks => unfold State.checkEdge; (repeat' split) <;> exact .of_eq hs (by simp) (by simp)
  | pauses => unfold State.waitEdge; split <;> exact .of_eq hs rfl rfl
  | stays | copies => exact .of_eq hs rfl rfl

theorem InEdge.staysOrPublishes {s a : State} (e : InEdge s a) (hs : s.prod.state = codeCommit) : StaysOrPublishes s a := by
  cases e with
  | held => exact .of_eq hs rfl rfl
  | ran a out m => exact m.staysOrPublishes hs

theorem Transition.staysOrPublishes {s t : State} (h : Transition s t) (hs : s.prod.state = codeCommit) :
    StaysOrPublishes s t := by
  cases h with
  | produced _ m => exact m.staysOrPublishes hs
  | consumed _ m => exact .of_eq hs m.side.log (by rw [m.side.prod])
  | clkIn _ e => exact e.staysOrPublishes hs
  | clkProc _ e => obtain ⟨_, -, side⟩ := e.side; exact .of_eq hs side.log (by rw [side.prod])
  | clkBoth a b _ _ e _ => exact e.staysOrPublishes hs
  | called | line | headCrossed | tailCrossed => exact .of_eq hs rfl rfl

/-- Settles O55, by the cases of a step. -/
theorem commitIsLeftOnlyByPublication : Obligations.CommitIsLeftOnlyByPublication := by
  intro s t hs h
  obtain ⟨-, rfl | ⟨rest, ⟨reset, -⟩ | ht⟩⟩ := step_transition s t h
  · exact .inr (StaysOrPublishes.of_eq hs rfl rfl)
  · exact .inl reset
  · exact .inr (ht.staysOrPublishes hs)

end Sys2Proof.Machine
end

section
/-! CONS's rows (R116 to R118): DEQUEUE takes the frame of the tail slot, PROCESS filters it, and the EMIT rows send what it left in
FOUT. -/

namespace Sys2Proof.Machine

/-! ## DEQUEUE -/

/-- An advance of the subtracted pointer takes one off a difference that is not 0. -/
theorem ptrDiff_ptrNext {F : Nat} (hF : 0 < F) {a b : Nat} (ready : 1 ≤ ptrDiff F a b) :
    ptrDiff F a (ptrNext F b) + 1 = ptrDiff F a b := by
  have before := ptrDiff_cast hF a b
  have after := ptrDiff_cast hF a (ptrNext F b)
  have less := ptrDiff_lt hF a b
  have advanced : ((a : Int) - (ptrNext F b : Nat)) % F = ((a - b) % F - 1) % F := by
    rw [ptrNext]
    push_cast
    rw [Int.sub_emod_emod, Int.emod_sub_emod, sub_add_eq_sub_sub]
  rw [advanced, ← before, Int.emod_eq_of_lt (by omega) (by omega)] at after
  omega

/-- Settles O38: the row answers `State.dequeued`, whose FIN is the frame written whole. -/
theorem dequeueTakesTheTailFrame : Obligations.DequeueTakesTheTailFrame := by
  intro s frame hl out hs ready hf
  have pos : 0 < s.slots := Nat.zero_lt_two.trans_le (legal_slots hl).1
  have len : frame.length = 512 := ((slotReadFrom_eq_ok _ _ _ _ _ _).1 hf).1
  have fin : readRun (s.dequeued frame).cons.fin 0 512 = .ok frame := len ▸ readRun_fullStore frame
  refine ⟨s.dequeued frame, (execDequeue_eq_next s _).2 ⟨out, hs, by omega, frame, hf, rfl⟩, fin, ?_, rfl,
    ptrDiff_ptrNext pos ready, fun _ => rfl, rfl⟩
  rw [State.finSamples, fin]
  rfl

/-! ## PROCESS -/

/-- Settles O39: FIN holds 256 Samples, which `filterFrame` always filters, and the row answers `State.processed`. -/
theorem processFiltersTheFrame : Obligations.ProcessFiltersTheFrame := by
  intro f s v out hs hv
  obtain ⟨r, hr⟩ := filterFrame_answers s.cfg.kMin s.cfg.kMax (finSamples_spec hv).1
  exact ⟨r, s.processed r, hr, (execProcess_eq_next f s _).2 ⟨out, hs, v, r, hv, hr, rfl⟩,
    (readRun_eq_ok_iff_stored _ _).2 (Stored.full (filterFrame_out_length hr)), fun _ => rfl, rfl⟩

/-! ## The EMIT rows -/

/-- The payload byte at an index, from the Sample that holds it (R118). -/
theorem outByte_payload {s : State} {e : Nat} {z : Sample} (h1 : 1 ≤ e) (h512 : e ≤ 512)
    (h : readCell s.cons.fout ((e - 1) / 2) = some z) :
    s.outByte e = .ok (if e % 2 = 1 then lowByte z else highByte z) := by
  rw [State.outByte, if_neg (by omega), if_neg (by omega), if_neg (by omega), readElem_of_readCell h]; rfl

/-- At an odd index the low byte of a Sample is offered next, where FOUT holds the Sample (log entry 17). -/
theorem nextOutData_low {s : State} {k : Nat} (hk : k < 256) :
    (∀ z, readCell s.cons.fout k = some z → s.nextOutData (2 * k + 1) = lowByte z) ∧
    (readCell s.cons.fout k = none → s.nextOutData (2 * k + 1) = s.cons.outData) := by
  have sample : (2 * k + 1 - 1) / 2 = k := by omega
  refine ⟨fun z hz => State.nextOutData_of_outByte ?_, fun hz => ?_⟩
  · rw [outByte_payload (by omega) (by omega) (by rwa [sample]), if_pos (by omega)]
  · rw [State.nextOutData, outByte_unwritten (by omega) (by omega) (by rwa [sample])]

/-- At an even index its high byte is. -/
theorem nextOutData_high {s : State} {k : Nat} (hk : k < 256) {z : Sample} (hz : readCell s.cons.fout k = some z) :
    s.nextOutData (2 * k + 2) = highByte z := by
  have sample : (2 * k + 2 - 1) / 2 = k := by omega
  refine State.nextOutData_of_outByte ?_
  rw [outByte_payload (by omega) (by omega) (by rwa [sample]), if_neg (by omega)]

/-- Before the last byte the index moves on, and the next byte is offered (R118, R120). -/
theorem emitting_of_more {s : State} (b : Byte) (more : s.cons.emitIdx ≠ 513#10) :
    s.emitting b = { s with
      emitted := s.emitted ++ [b]
      cons := { s.cons with
        emitIdx := s.cons.emitIdx + 1#10, outValid := true, outData := s.nextOutData (s.cons.emitIdx.toNat + 1) } } :=
  if_neg more

/-- The byte after EMIT_DATA's, case by case: the end of the frame, the high byte of the same Sample, the low byte of the next. -/
theorem nextOutData_afterData {s : State} {e : Nat} {z : Sample} (h1 : 1 ≤ e) (h512 : e ≤ 512)
    (hz : readCell s.cons.fout ((e - 1) / 2) = some z) :
    (e = 512 → s.nextOutData (e + 1) = eofByte) ∧
    (e % 2 = 1 → s.nextOutData (e + 1) = highByte z) ∧
    (e % 2 = 0 → e < 512 →
      (∀ z', readCell s.cons.fout (e / 2) = some z' → s.nextOutData (e + 1) = lowByte z') ∧
      (readCell s.cons.fout (e / 2) = none → s.nextOutData (e + 1) = s.cons.outData)) := by
  refine ⟨?_, fun odd => ?_, fun even before => ?_⟩
  · rintro rfl
    exact State.nextOutData_of_outByte rfl
  · have next : e + 1 = 2 * ((e - 1) / 2) + 2 := by omega
    rw [next]
    exact nextOutData_high (by omega) hz
  · have next : e + 1 = 2 * (e / 2) + 1 := by omega
    rw [next]
    exact nextOutData_low (by omega)

/-- Settles O40: each row answers `State.emitting` of its byte, and the byte offered next is `byte(emit_idx + 1)`. -/
theorem emitRowsSendTheOutputFrame : Obligations.EmitRowsSendTheOutputFrame := by
  intro s out hs
  refine ⟨fun first => ?_, fun d z h1 h512 hz hd => ?_, fun last => ?_⟩
  · have row := emitting_of_more sofByte (show s.cons.emitIdx ≠ 513#10 by rw [first]; decide)
    have offered := nextOutData_low (s := s) (k := 0) (by decide)
    rw [first] at row
    exact ⟨_, (execEmitSof_eq_next s _).2 ⟨out, hs, first, row⟩, offered.1, offered.2, rfl⟩
  · have sent : s.outByte s.cons.emitIdx.toNat = .ok d := hd ▸ outByte_payload h1 h512 hz
    have row := emitting_of_more d (show s.cons.emitIdx ≠ 513#10 by bv_omega)
    obtain ⟨last, high, low⟩ := nextOutData_afterData h1 h512 hz
    exact ⟨_, (execEmitData_eq_next _ d s _).2 ⟨out, hs, rfl, by simpa [BitVec.le_def] using h1,
      by simpa [BitVec.le_def] using h512, sent, row⟩, last, high, low, rfl⟩
  · exact ⟨_, (execEmitEof_eq_next s _).2 ⟨out, hs, last, if_pos last⟩, rfl⟩

end Sys2Proof.Machine
end

section
/-! The dequeue copy at the cycle level (R120): the edge that starts it, then one byte of the frame at a time, each after the edges
that the read latency lets pass (I10), beside the registers of the crossing, which every edge moves. -/

namespace Sys2Proof.Machine

/-! ## Edges beside the crossing -/

/-- A number of `clk_proc` edges, whatever SINK drives, leads from `s` to `t`, the registers of the crossing set aside. -/
def EdgesLead (s t : State) : Prop :=
  ∃ n, ∀ evs rest : List Event, evs.length = n → allClkProc evs → ∀ g sync, ∃ g' sync',
    Sys2Proof.core.run n (s.withHeadView g sync (evs ++ rest)) = .next (t.withHeadView g' sync' rest)

theorem EdgesLead.refl (s : State) : EdgesLead s s :=
  ⟨0, fun evs rest len _ g sync => ⟨g, sync, by rw [List.eq_nil_of_length_eq_zero len]; rfl⟩⟩

/-- One edge more, at which CONS takes nothing from SINK or from the crossing. -/
theorem EdgesLead.edge {s u t : State} (hl : s.cfg.legal = true) (out : s.consOutOfReset = true)
    (edge : ∀ r g sync l, (s.withHeadView g sync l).consEdge r = .ok (u.withHeadView g sync l)) (later : EdgesLead u t) :
    EdgesLead s t := by
  obtain ⟨n, later⟩ := later
  refine ⟨n + 1, fun evs rest len clk g sync => ?_⟩
  obtain ⟨ev, evs, rfl⟩ := List.exists_cons_of_length_eq_add_one len
  obtain ⟨⟨r, rfl⟩, others⟩ := List.forall_mem_cons.1 clk
  rw [List.cons_append, Nat.add_comm, run_add n (run_one (step_withHeadView hl out (edge r g sync (evs ++ rest))))]
  exact later evs rest (Nat.succ.inj len) others _ _

/-! ## The edges of WAITING -/

/-- The edge that starts a dequeue copy (R120). -/
theorem consEdge_starts {s : State} (r : Bool) (hs : s.cons.state = codeWaiting) (idle : s.cons.dqActive = false)
    (ready : 1 ≤ s.framesReady) :
    s.consEdge r = .ok ({ s with cons := { s.cons with dqActive := true, rdIdx := 0#9 } } : State).stalled := by
  simp [State.consEdge, hs, idle, ready, codeWaiting, codeUnused]

/-- The edge of a read, the read latency having passed (R120, I10). -/
theorem consEdge_reads {s u : State} (r : Bool) (hs : s.cons.state = codeWaiting) (active : s.cons.dqActive = true)
    (acts : s.pipe.stall = 0) (hu : s.readEdge = .ok u) : s.consEdge r = .ok u.stalled := by
  simp [State.consEdge, hs, active, acts, hu, codeWaiting, codeUnused]

/-- A read before the last moves the index on (R120). -/
theorem readEdge_more {s : State} {b : Byte} (more : s.cons.rdIdx ≠ 511#9)
    (hb : readCell s.ram (ramAddr s.cfg s.cons.tf s.cons.rdIdx.toNat) = some b) :
    s.readEdge = .ok { s with
      cons := { s.cons with fin := writeCell s.cons.fin s.cons.rdIdx.toNat b, rdIdx := s.cons.rdIdx + 1#9 } } := by
  rw [State.readEdge, ramRead, readElem_of_readCell hb, ok_bind]
  exact if_neg more

/-- The last read publishes (R116, R120). -/
theorem readEdge_last {s : State} {b : Byte} (last : s.cons.rdIdx = 511#9)
    (hb : readCell s.ram (ramAddr s.cfg s.cons.tf s.cons.rdIdx.toNat) = some b) :
    s.readEdge = .ok ({ s with
      cons := { s.cons with fin := writeCell s.cons.fin s.cons.rdIdx.toNat b } } : State).dequeuePublished := by
  rw [State.readEdge, ramRead, readElem_of_readCell hb, ok_bind]
  exact if_pos last

/-! ## The copy -/

/-- `k` bytes of the frame are copied, with the stall counter and the counter of free values as given (R120; log entry 14). -/
def State.fetching (s : State) (frame : List Byte) (k stall free : Nat) : State :=
  { s with
    cons := { s.cons with fin := writeRun s.cons.fin 0 (frame.take k), dqActive := true, rdIdx := BitVec.ofNat 9 k }
    pipe := { s.pipe with stall := stall }
    freeIdx := free }

/-- DEQUEUE's state, but for FIN as a store and the two counters. -/
def State.fetched (s : State) (frame : List Byte) (stall free : Nat) : State :=
  { s.dequeued frame with
    cons := { (s.dequeued frame).cons with fin := writeRun s.cons.fin 0 frame }
    pipe := { (s.dequeued frame).pipe with stall := stall }
    freeIdx := free }

section

variable {s : State} {frame : List Byte}

/-- The byte that the k-th read finds (R31, R116). -/
theorem tailFrame_byte (hf : s.tailFrameBytes = .ok frame) {k : Nat} (hk : k < frame.length) :
    (BitVec.ofNat 9 k).toNat = k ∧
      readCell s.ram (ramAddr s.cfg s.cons.tf (BitVec.ofNat 9 k).toNat) = some frame[k] := by
  obtain ⟨len, cells⟩ := (slotReadFrom_eq_ok _ _ _ _ _ _).1 hf
  have index : (BitVec.ofNat 9 k).toNat = k := by rw [BitVec.toNat_ofNat]; omega
  have cell := cells k (len ▸ hk)
  rw [Nat.zero_add, List.getElem?_eq_getElem hk] at cell
  exact ⟨index, index.symm ▸ cell⟩

/-- FIN with one byte more. -/
theorem fetching_written (st : Store Byte) {k : Nat} (hk : k < frame.length) :
    writeCell (writeRun st 0 (frame.take k)) k frame[k] = writeRun st 0 (frame.take (k + 1)) := by
  rw [List.take_succ_eq_append_getElem hk, writeRun_concat, List.length_take, Nat.zero_add, Nat.min_eq_left hk.le]

/-- A read before the last copies the next byte (R120). -/
theorem fetching_reads (hs : s.cons.state = codeWaiting) (hf : s.tailFrameBytes = .ok frame) {k : Nat} (hk : k + 1 < 512)
    (free : Nat) (r : Bool) (g : Nat) (sync : List Nat) (l : List Event) :
    ((s.fetching frame k 0 free).withHeadView g sync l).consEdge r =
      .ok ((s.fetching frame (k + 1) (Config.procStall free) (free + 1)).withHeadView g sync l) := by
  have len : frame.length = 512 := ((slotReadFrom_eq_ok _ _ _ _ _ _).1 hf).1
  have inFrame : k < frame.length := by omega
  obtain ⟨index, byte⟩ := tailFrame_byte hf inFrame
  have more : BitVec.ofNat 9 k ≠ 511#9 := by rw [ne_eq, ← BitVec.toNat_inj, index, BitVec.toNat_ofNat]; omega
  have read := readEdge_more (s := (s.fetching frame k 0 free).withHeadView g sync l) more byte
  rw [consEdge_reads (s := (s.fetching frame k 0 free).withHeadView g sync l) r hs rfl rfl read, State.fetching, State.fetching,
    ← fetching_written s.cons.fin inFrame, BitVec.ofNat_add]
  simp only [State.withHeadView, index]
  rfl

/-- The last read publishes the frame (R116, R120). -/
theorem fetching_ends (hs : s.cons.state = codeWaiting) (hf : s.tailFrameBytes = .ok frame) (free : Nat) (r : Bool) (g : Nat)
    (sync : List Nat) (l : List Event) : ((s.fetching frame 511 0 free).withHeadView g sync l).consEdge r =
      .ok ((s.fetched frame (Config.procStall free) (free + 1)).withHeadView g sync l) := by
  have len : frame.length = 512 := ((slotReadFrom_eq_ok _ _ _ _ _ _).1 hf).1
  have inFrame : 511 < frame.length := by omega
  obtain ⟨-, byte⟩ := tailFrame_byte hf inFrame
  have written := fetching_written s.cons.fin inFrame
  rw [List.take_of_length_le (show frame.length ≤ 511 + 1 by omega)] at written
  have read := readEdge_last (s := (s.fetching frame 511 0 free).withHeadView g sync l) rfl byte
  rw [consEdge_reads (s := (s.fetching frame 511 0 free).withHeadView g sync l) r hs rfl rfl read, State.fetched, ← written]
  rfl

/-- The edges of the read latency come to the read (I10). -/
theorem fetching_waits (hl : s.cfg.legal = true) (out : s.consOutOfReset = true) (hs : s.cons.state = codeWaiting) {k : Nat}
    {free : Nat} {t : State} (read : EdgesLead (s.fetching frame k 0 free) t) (stall : Nat) :
    EdgesLead (s.fetching frame k stall free) t := by
  induction stall with
  | zero => exact read
  | succ stall ih =>
    exact .edge (u := s.fetching frame k stall free) hl out
      (fun r g sync l => consEdge_stalls _ r (.inl ⟨hs, rfl⟩) (Nat.succ_pos stall)) ih

/-- From each byte on the copy comes to its publication, after the edges of the reads left and of their latencies (R120, I10). -/
theorem fetching_leads (hl : s.cfg.legal = true) (out : s.consOutOfReset = true) (hs : s.cons.state = codeWaiting)
    (hf : s.tailFrameBytes = .ok frame) (left : Nat) {k : Nat} (hk : k + left = 511) (stall free : Nat) :
    ∃ stall' free', EdgesLead (s.fetching frame k stall free) (s.fetched frame stall' free') := by
  induction left generalizing k stall free with
  | zero =>
    obtain rfl : k = 511 := hk
    exact ⟨_, _, fetching_waits hl out hs (.edge hl out (fetching_ends hs hf free) (.refl _)) stall⟩
  | succ left ih =>
    obtain ⟨stall', free', later⟩ := ih (k := k + 1) (by omega) (Config.procStall free) (free + 1)
    exact ⟨stall', free', fetching_waits hl out hs (.edge hl out (fetching_reads hs hf (by omega) free) later) stall⟩

end

/-- Settles O59: the edge that starts the copy, then the edges of the 512 reads, beside the crossing. -/
theorem dequeueCopyIsOneDequeue : Obligations.DequeueCopyIsOneDequeue := by
  intro s frame hl out hs idle ready hf
  have len : frame.length = 512 := ((slotReadFrom_eq_ok _ _ _ _ _ _).1 hf).1
  obtain ⟨stall, free, n, copy⟩ := fetching_leads hl out hs hf 511 (k := 0) rfl (Config.procStall s.freeIdx) (s.freeIdx + 1)
  refine ⟨n + 1, fun evs rest total clk => ?_⟩
  obtain ⟨ev, evs, rfl⟩ := List.exists_cons_of_length_eq_add_one total
  obtain ⟨⟨r, rfl⟩, others⟩ := List.forall_mem_cons.1 clk
  have start := step_clkProc (s := { s with inbox := .clkProc r :: (evs ++ rest) }) hl rfl out (consEdge_starts r hs idle ready)
  obtain ⟨g, sync, reads⟩ := copy evs rest (Nat.succ.inj total) others (grayOf s.cons.tf) (shiftIn s.prod.hfGray s.cons.hfSync)
  refine ⟨(s.fetched frame stall free).withHeadView g sync rest, s.dequeued frame, ?_,
    (execDequeue_eq_next s _).2 ⟨out, hs, by omega, frame, hf, rfl⟩, len ▸ readRun_writeRun s.cons.fin frame, rfl⟩
  rw [List.cons_append, Nat.add_comm, run_add n (run_one start)]
  exact reads

end Sys2Proof.Machine
end

section
/-! RESET and the reset line (R134 items 1 to 3, R135, R126 item 1): the invariants after reset, and each domain's release through its
synchroniser. -/

namespace Sys2Proof.Machine

/-! ## After reset -/

/-- A reset of the state right after reset is that state again (R135). -/
theorem registersReset_resetOf (p : Params) : (State.resetOf p).registersReset (ResetUnit.released p) = State.resetOf p := rfl

theorem storesCanonical_resetOf (p : Params) : StoresCanonical (State.resetOf p) :=
  (storesCanonical_iff _).2 ⟨⟨rfl, rfl⟩, ⟨rfl, rfl, .empty⟩, rfl, .empty⟩

theorem controlInv_resetOf (p : Params) : ControlInv (State.resetOf p) :=
  registersReset_resetOf p ▸ controlInv_registersReset (State.resetOf p) (ResetUnit.released p)

theorem streamInv_resetOf {p : Params} (hl : p.legal = true) : StreamInv (State.resetOf p) :=
  registersReset_resetOf p ▸ streamInv_registersReset (s := State.resetOf p) hl (ResetUnit.released p)

/-- The default parameters are legal (R6). -/
theorem default_legal : Params.default.legal = true := by decide

/-- Settles O48: the state right after reset is what a reset makes of it, and a reset meets the invariants. -/
theorem resetMeetsTheInvariants : Obligations.ResetMeetsTheInvariants := by
  have met (p : Params) (hl : p.legal = true) : StoresCanonical (State.resetOf p) ∧ ControlInv (State.resetOf p) ∧
      RingInv (State.resetOf p) ∧ StreamInv (State.resetOf p) :=
    ⟨storesCanonical_resetOf p, controlInv_resetOf p, (streamInv_resetOf hl).ringInv, streamInv_resetOf hl⟩
  exact ⟨met, met Params.default default_legal⟩

/-! ## The release of a domain -/

theorem syncStages_pos {p : Params} (hl : p.legal = true) : 0 < p.syncStages := by
  obtain ⟨-, -, -, -, -, two⟩ := legal_ring hl
  exact Nat.zero_lt_two.trans_le two

/-- A cleared reset synchroniser of n flops after k edges with `rst_n` at 1 (R134 item 2). -/
def releasing (n k : Nat) : List Bool := List.replicate k true ++ List.replicate (n - k) false

theorem shiftIn_releasing {n k : Nat} (hk : k < n) : shiftIn true (releasing n k) = releasing n (k + 1) := by
  obtain ⟨m, rfl⟩ := Nat.exists_eq_add_of_lt hk
  have before : k + m + 1 - k = m + 1 := by omega
  have after : k + m + 1 - (k + 1) = m := by omega
  rw [shiftIn_eq _ _ (by simp [releasing, before]), releasing, releasing, before, after, List.replicate_succ',
    ← List.append_assoc, List.dropLast_concat, List.replicate_succ, List.cons_append]

/-- The last flop is 1 with the n-th edge, and not before. -/
theorem releasing_last {n k : Nat} (hn : 0 < n) (hk : k ≤ n) : (releasing n k).getLastD false = decide (k = n) := by
  obtain lt | rfl := Nat.lt_or_eq_of_le hk
  · obtain ⟨m, rfl⟩ := Nat.exists_eq_add_of_lt lt
    have flops : k + m + 1 - k = m + 1 := by omega
    rw [releasing, flops, List.replicate_succ', ← List.append_assoc, List.getLastD_concat, decide_eq_false (by omega)]
  · obtain ⟨m, rfl⟩ := Nat.exists_eq_add_one.2 hn
    rw [releasing, Nat.sub_self, List.replicate_zero, List.append_nil, List.replicate_succ', List.getLastD_concat,
      decide_eq_true rfl]

/-- A run of edges of one clock: `f chain l` is the machine with this synchroniser and these events to come, and an edge before the
domain is out of reset shifts the synchroniser and does no more. -/
theorem run_releasing {f : List Bool → List Event → State} {clock : Event → Prop} {n : Nat} (hn : 0 < n)
    (edge : ∀ e chain l, clock e → chain.getLastD false = false → step (f chain (e :: l)) = .next (f (shiftIn true chain) l))
    (evs rest : List Event) (clk : ∀ e ∈ evs, clock e) (k : Nat) (hk : k + evs.length ≤ n) :
    Sys2Proof.core.run evs.length (f (releasing n k) (evs ++ rest)) = .next (f (releasing n (k + evs.length)) rest) := by
  induction evs generalizing k with
  | nil => rfl
  | cons e evs ih =>
    obtain ⟨here, later⟩ := List.forall_mem_cons.1 clk
    rw [List.length_cons] at hk ⊢
    have held : (releasing n k).getLastD false = false := by
      rw [releasing_last hn (by omega), decide_eq_false (by omega)]
    have next := edge e (releasing n k) (evs ++ rest) here held
    rw [shiftIn_releasing (by omega)] at next
    rw [List.cons_append, Nat.add_comm evs.length 1, run_add _ (run_one next), ih later (k + 1) (by omega), Nat.add_assoc]

/-- The machine with its reset synchroniser of the `clk_in` domain and the events to come replaced. -/
def State.withInSync (s : State) (chain : List Bool) (l : List Event) : State :=
  { s with rst := { s.rst with inSync := chain }, inbox := l }

/-- The same for the `clk_proc` domain. -/
def State.withProcSync (s : State) (chain : List Bool) (l : List Event) : State :=
  { s with rst := { s.rst with procSync := chain }, inbox := l }

/-- An edge with `rst_n` at 1 before the domain is out of reset (R134 item 2). -/
theorem step_withInSync {s : State} (hl : s.cfg.legal = true) (high : s.rst.rstN = true) (e : Event) (chain : List Bool)
    (l : List Event) (clk : ∃ v d, e = .clkIn v d) (held : chain.getLastD false = false) :
    step (s.withInSync chain (e :: l)) = .next (s.withInSync (shiftIn true chain) l) := by
  obtain ⟨v, d, rfl⟩ := clk
  have reset : (s.withInSync chain l).prodOutOfReset = false := by
    rw [State.prodOutOfReset]; exact Bool.and_eq_false_iff.2 (.inr held)
  exact (step_event (s.withInSync chain (.clkIn v d :: l)) _ l hl rfl).trans <|
    (clkInEdge_eq_next v d (s.withInSync chain l) _).2 (.inr (.inl ⟨high, reset, rfl⟩))

theorem step_withProcSync {s : State} (hl : s.cfg.legal = true) (high : s.rst.rstN = true) (e : Event) (chain : List Bool)
    (l : List Event) (clk : ∃ r, e = .clkProc r) (held : chain.getLastD false = false) :
    step (s.withProcSync chain (e :: l)) = .next (s.withProcSync (shiftIn true chain) l) := by
  obtain ⟨r, rfl⟩ := clk
  have reset : (s.withProcSync chain l).consOutOfReset = false := by
    rw [State.consOutOfReset]; exact Bool.and_eq_false_iff.2 (.inr held)
  exact (step_event (s.withProcSync chain (.clkProc r :: l)) _ l hl rfl).trans <|
    (clkProcEdge_eq_next r (s.withProcSync chain l) _).2 (.inr (.inl ⟨high, reset, rfl⟩))

/-! ## The reset line -/

/-- A change of the line is `resetLine` (R134). -/
theorem step_rstN {s : State} {level : Bool} {rest : List Event} (hl : s.cfg.legal = true)
    (hi : s.inbox = .rstN level :: rest) : step s = resetLine level { s with inbox := rest } :=
  step_event s _ rest hl hi

theorem resetLine_same (s : State) : resetLine s.rst.rstN s = .next s := if_pos rfl

theorem resetLine_falls {s : State} (high : s.rst.rstN = true) :
    resetLine false s = .next (s.registersReset (ResetUnit.asserted s.cfg)) := by
  simp [resetLine, high]

theorem resetLine_rises {s : State} (low : s.rst.rstN = false) :
    resetLine true s = if s.cfg.syncStages + 1 ≤ s.rst.lowIn ∧ s.cfg.syncStages + 1 ≤ s.rst.lowProc then
      .next { s with rst := { s.rst with rstN := true } } else .refused .shortReset := by
  simp [resetLine, low]

/-- While the line is 0 an edge only counts (R134 item 1). -/
theorem clkInEdge_held {s : State} (v : Bool) (d : Byte) (low : s.rst.rstN = false) :
    clkInEdge v d s = .next { s with rst := { s.rst with lowIn := s.rst.lowIn + 1 } } := by
  simp [clkInEdge, low]

theorem clkProcEdge_held {s : State} (r : Bool) (low : s.rst.rstN = false) :
    clkProcEdge r s = .next { s with rst := { s.rst with lowProc := s.rst.lowProc + 1 } } := by
  simp [clkProcEdge, low]

theorem clkBothEdge_held {s : State} (v : Bool) (d : Byte) (r newHead newTail : Bool) (low : s.rst.rstN = false) :
    clkBothEdge v d r newHead newTail s =
      .next { s with rst := { s.rst with lowIn := s.rst.lowIn + 1, lowProc := s.rst.lowProc + 1 } } := by
  refine (clkBothEdge_eq_next v d r newHead newTail s _).2 ⟨_, _, clkInEdge_held v d low, clkProcEdge_held r low, ?_⟩
  have prodHeld : s.prodOutOfReset = false := by simp [State.prodOutOfReset, low]
  have consHeld : s.consOutOfReset = false := by simp [State.consOutOfReset, low]
  simp [State.joined, prodHeld, consHeld]

/-- Settles O42: each clause is a branch of `resetLine` or of an edge, and the release is a run of the synchroniser's edges. -/
theorem resetLineHoldsAndReleases : Obligations.ResetLineHoldsAndReleases := by
  refine ⟨fun s rest hl hi high => ?_, fun s rest hl low => ?_, fun s rest hl hi => ?_, fun s rest hl hi low => ?_,
    fun s evs rest hl high cleared len clk => ?_, fun s evs rest hl high cleared len clk => ?_⟩
  · exact ⟨_, _, (step_rstN hl hi).trans (resetLine_falls (by exact high)), rfl, rfl, rfl, rfl, rfl, rfl⟩
  · exact ⟨fun v d hi => (step_event s _ rest hl hi).trans (clkInEdge_held v d (by exact low)),
      fun r hi => (step_event s _ rest hl hi).trans (clkProcEdge_held r (by exact low)),
      fun v d r h k hi => (step_event s _ rest hl hi).trans (clkBothEdge_held v d r h k (by exact low))⟩
  · exact (step_rstN hl hi).trans (resetLine_same { s with inbox := rest })
  · have rise := (step_rstN hl hi).trans (resetLine_rises (s := { s with inbox := rest }) low)
    exact ⟨fun whole => rise.trans (if_pos whole), fun short => rise.trans (if_neg (by dsimp only; omega))⟩
  · have pos := syncStages_pos hl
    have run := run_releasing pos (step_withInSync hl high) evs rest clk 0 (by omega)
    rw [Nat.zero_add] at run
    refine ⟨s.withInSync (releasing s.cfg.syncStages evs.length) rest, ?_, ?_, rfl⟩
    · rw [← run, releasing, Nat.sub_zero]; simp [State.withInSync, ← cleared]
    · rw [State.prodOutOfReset, ← releasing_last pos len]; simp [State.withInSync, high]
  · have pos := syncStages_pos hl
    have run := run_releasing pos (step_withProcSync hl high) evs rest clk 0 (by omega)
    rw [Nat.zero_add] at run
    refine ⟨s.withProcSync (releasing s.cfg.syncStages evs.length) rest, ?_, ?_, rfl⟩
    · rw [← run, releasing, Nat.sub_zero]; simp [State.withProcSync, ← cleared]
    · rw [State.consOutOfReset, ← releasing_last pos len]; simp [State.withProcSync, high]

end Sys2Proof.Machine
end
